-- ==== Sys2Proof/Word.lean ====
section
/-! DEFINITION. The word types of the framer: bytes, operation words and buffer indices (spec/00_scope.md R7, R8). -/

namespace Sys2Proof

/-- A byte: eight bits, bit 0 least significant (R7). -/
abbrev Byte := BitVec 8

/-- An operation word `opc[15:12] rsv[11:8] arg[7:0]`, and the width of `host_result` (R60, R61). -/
abbrev OpWord := BitVec 16

/-- The seven-bit positions and lengths `S.pos` and `S.explen` (R20). -/
abbrev Position := BitVec 7

end Sys2Proof
end

