-- ==== Sys2Proof/Syntax.lean ====
section
/-! DEFINITION. The operations of the framer, one constructor per row of spec/opcode_table.json, the agent that issues each
(R62), and the assembler's lines (R66). -/

namespace Sys2Proof

/-- The four operations (R62). -/
inductive Instr where
  /-- `RXB b`: one received byte (R100). -/
  | rxb (b : Byte)
  /-- `POLL`: report frame readiness and run the health check (R190). -/
  | poll
  /-- `RDCH index`: read one channel (R160); the index has eight bits (R64). -/
  | rdch (index : Byte)
  /-- `INIT`: initialise the block and open the transport (R191). -/
  | init
  deriving DecidableEq, Repr

/-- The two agents (R48); each has a port of its own (R60, R205). -/
inductive Agent where
  /-- Delivers received bytes on `rx_valid` and `rx_data`. -/
  | rx
  /-- Issues operation words on `host_valid` and `host_op`. -/
  | host
  deriving DecidableEq, Repr

/-- An operation as the assembler writes it (R66): its number is any natural the text gives. -/
inductive AsmOp where
  | rxb (n : Nat)
  | poll
  | rdch (n : Nat)
  | init
  deriving DecidableEq, Repr

/-- One line of an assembler program (R66): an operation or a pseudo-operation. -/
inductive AsmLine where
  | op (o : AsmOp)
  /-- `FRAME b0 b1 .. bn`: one RXB for each byte, in order. -/
  | frame (bytes : List Nat)
  /-- `REP n, <op>`: `n` copies of `<op>`, one of the four operations (DESIGN CHOICE, notes/assumptions/12.md). -/
  | rep (n : Nat) (o : AsmOp)
  /-- `RESET`: `rst` for one cycle; no operation word. -/
  | reset
  deriving DecidableEq, Repr

/-- What one agent, or the reset line, does next (R48, R66). -/
inductive Issue where
  | op (i : Instr)
  | reset
  deriving DecidableEq, Repr

end Sys2Proof
end

