-- ==== Sys2Proof/WellFormed.lean ====
section
/-! DEFINITION. Which operations may be issued where, and which assembler lines have an encoding. Every value of an `Instr`
operand is legal (R63 for RXB, R64 for RDCH), so an `Instr` can only be wrong for the port it stands on. -/

namespace Sys2Proof

/-- The one agent that may issue an operation (R62, column "issued by"). -/
def Instr.agent : Instr → Agent
  | .rxb _ => .rx
  | .poll => .host
  | .rdch _ => .host
  | .init => .host

/-- An operation is well formed on the port of the agent named for it, and on no other (R62, R63, R205). -/
def Instr.wellFormedOn (a : Agent) (i : Instr) : Bool := decide (i.agent = a)

/-- The assembler's numbers are 0 to 255 (R66); negative indices cannot be encoded (R64). -/
def AsmOp.wellFormed : AsmOp → Bool
  | .rxb n => decide (n < 256)
  | .poll => true
  | .rdch n => decide (n < 256)
  | .init => true

/-- `FRAME` lists at least one byte, each 0 to 255; `REP` repeats a well-formed operation (R66). -/
def AsmLine.wellFormed : AsmLine → Bool
  | .op o => o.wellFormed
  | .frame bytes => !bytes.isEmpty && bytes.all (fun n => decide (n < 256))
  | .rep _ o => o.wellFormed
  | .reset => true

end Sys2Proof
end

