-- ==== Sys2Proof/Decode.lean ====
section
/-! DEFINITION. The decoder of operation words, total and rejecting by name (R61 to R64), and the encoder after it. -/

namespace Sys2Proof

/-- Why a word is reserved (R63). Each constructor carries the word. -/
inductive Reject where
  /-- The opcode is 0x0 or 0x5 to 0xF. -/
  | opcodeReserved (w : OpWord)
  /-- `rsv`, bits 11:8, is not zero. -/
  | reservedBitsSet (w : OpWord)
  /-- POLL or INIT with `arg` not zero. -/
  | operandNotZero (w : OpWord)
  /-- Opcode 0x1 on the HOST port: RXB is issued by the RX agent only. -/
  | rxbOnHostPort (w : OpWord)
  deriving DecidableEq, Repr

/-- `opc`, bits 15:12 (R61). -/
def opcField (w : OpWord) : BitVec 4 := w.extractLsb' 12 4

/-- `rsv`, bits 11:8 (R61). -/
def rsvField (w : OpWord) : BitVec 4 := w.extractLsb' 8 4

/-- `arg`, bits 7:0 (R61, R64). -/
def argField (w : OpWord) : Byte := w.extractLsb' 0 8

/-- The operation a word stands for (R62), or why it is reserved (R63). -/
def decode (w : OpWord) : Except Reject Instr :=
  if rsvField w ≠ 0#4 then .error (.reservedBitsSet w)
  else if opcField w = 1#4 then .ok (.rxb (argField w))
  else if opcField w = 2#4 then
    if argField w = 0#8 then .ok .poll else .error (.operandNotZero w)
  else if opcField w = 3#4 then .ok (.rdch (argField w))
  else if opcField w = 4#4 then
    if argField w = 0#8 then .ok .init else .error (.operandNotZero w)
  else .error (.opcodeReserved w)

/-- The operation a word stands for on the HOST port: opcode 0x1 is reserved there (R63). -/
def decodeHost (w : OpWord) : Except Reject Instr :=
  match decode w with
  | .error why => .error why
  | .ok i => if i.wellFormedOn .host then .ok i else .error (.rxbOnHostPort w)

/-- The word made of its three fields (R61). -/
def assembleWord (opc rsv : BitVec 4) (arg : Byte) : OpWord := opc ++ rsv ++ arg

/-- The word of an operation, from the patterns of R62. -/
def encode : Instr → OpWord
  | .rxb b => assembleWord 1#4 0#4 b
  | .poll => assembleWord 2#4 0#4 0#8
  | .rdch index => assembleWord 3#4 0#4 index
  | .init => assembleWord 4#4 0#4 0#8

/-- One row of the opcode table (R62): a word belongs to the row when `w & mask = pattern`. -/
structure OpcodeRow where
  mnemonic : String
  pattern : OpWord
  mask : OpWord
  deriving DecidableEq, Repr

/-- R62's columns match and mask. -/
def opcodeTable : List OpcodeRow :=
  [⟨"RXB", 0x1000#16, 0xFF00#16⟩, ⟨"POLL", 0x2000#16, 0xFFFF#16⟩,
   ⟨"RDCH", 0x3000#16, 0xFF00#16⟩, ⟨"INIT", 0x4000#16, 0xFFFF#16⟩]

/-- A word matches a row. -/
def OpcodeRow.matchesWord (r : OpcodeRow) (w : OpWord) : Bool := decide (w &&& r.mask = r.pattern)

/-- The row of an operation (R62). -/
def Instr.row : Instr → OpcodeRow
  | .rxb _ => ⟨"RXB", 0x1000#16, 0xFF00#16⟩
  | .poll => ⟨"POLL", 0x2000#16, 0xFFFF#16⟩
  | .rdch _ => ⟨"RDCH", 0x3000#16, 0xFF00#16⟩
  | .init => ⟨"INIT", 0x4000#16, 0xFFFF#16⟩

/-- The operation word of `nbits` bits whose value is `w`: an operation has 16 bits, and bits above `nbits` are zero. -/
def tableWord (nbits w : Nat) : OpWord := BitVec.ofNat 16 (w % 2 ^ nbits)

/-- The operation the decoder reads from a row of spec/opcode_table.json. -/
def decodeTableWord (nbits w : Nat) : Option Instr :=
  if nbits ≤ 16 then (decode (tableWord nbits w)).toOption else none

end Sys2Proof
end

