-- ==== Sys2Proof/Config.lean ====
section
/-! DEFINITION. What fixes a type, and the values the spec leaves free. The other constants of R5 and R6 stand in
Machine/Constants.lean, each under its own name, so that a correction changes one place (R5). -/

namespace Sys2Proof

/-- JUNK_WIDTH (R6, decision D11): the junk counter has 32 bits and wraps. -/
abbrev Config.junkWidth : Nat := 32

/-- CRC_WIDTH (R5): the width of the CRC register and trailer. -/
abbrev Config.crcWidth : Nat := 16

/-- The CRC register (R140, R141). -/
abbrev CrcReg := BitVec Config.crcWidth

/-- BUF_RESET (R6, R24, decision D14): the byte that buffer index `k` holds after the `n`-th reset or INIT, until a captured
byte is stored there. A free draw: nothing constrains it. See notes/assumptions/2.md. -/
opaque Config.bufDraw : Nat → Nat → Byte

end Sys2Proof
end

