-- ==== Sys2Proof/Machine/Constants.lean ====
section
/-! DEFINITION. The block's named constants (spec/00_scope.md R5) and parameters (R6), each with the value given there.
CRC_WIDTH and JUNK_WIDTH, which fix types, stand in Config.lean. -/

namespace Sys2Proof

/-- START_MARKER: the byte that starts a candidate frame. -/
def Config.startMarker : Byte := 0x3E#8

/-- TYPE_RC: the frame type of RC data. -/
def Config.typeRc : Byte := 0x31#8

/-- LEN_POS: the frame offset of the total-length byte. -/
def Config.lenPos : Nat := 2

/-- TYPE_POS: the frame offset of the frame-type byte. -/
def Config.typePos : Nat := 4

/-- MIN_LEN: the shortest frame, and the expected length until the real one is known. -/
def Config.minLen : Nat := 7

/-- MAX_LEN: the longest frame, and the capacity of the frame buffer in bytes. -/
def Config.maxLen : Nat := 70

/-- NUM_CH: the number of channels (R5, R192). -/
def Config.numCh : Nat := 16

/-- CH_OFFSET: the frame offset of channel 0's low byte. -/
def Config.chOffset : Nat := 6

/-- CH_BYTES: the bytes of one channel field. -/
def Config.chBytes : Nat := 2

/-- TICKS_PER_US: a tick is 1/8 microsecond. -/
def Config.ticksPerUs : Nat := 8

/-- ROUND_ADD: the rounding addend of the conversion. -/
def Config.roundAdd : Nat := 4

/-- JUNK_THRESHOLD: the junk count the health check must exceed. -/
def Config.junkThreshold : Nat := 1000

/-- DEFAULT_VALUE: what RDCH returns when no frame is available. -/
def Config.defaultValue : OpWord := 0#16

/-- CRC_POLY_REFLECTED: x^16 + x^12 + x^5 + 1, bit-reflected (decision D10). -/
def Config.crcPolyReflected : CrcReg := 0x8408#Config.crcWidth

/-- CRC_INIT: the CRC register's initial value (R143, decision D10). -/
def Config.crcInit : CrcReg := 0x0000#Config.crcWidth

/-- LENGTH_ABORT_CHARGES_JUNK: false in this hardware (R104, decision D7). -/
def Config.lengthAbortChargesJunk : Bool := false

/-- The bytes a length abort would charge: offsets 0 to 2 (R100, R104). -/
def Config.lengthAbortCharge : Nat := 3

/-- OOR_READ_CONSUMES: false in this hardware (R161, decision D9). -/
def Config.oorReadConsumes : Bool := false

end Sys2Proof
end

