-- ==== Sys2Proof/Machine/State.lean ====
section
/-! DEFINITION. The state of the framer (spec/10_state.md R20), its registered output ports (R60), and what the model adds to
run it: the input lines, the label of the last step and the number of the buffer's draw. Also the reasons a step can stop. -/

namespace Sys2Proof.Machine

/-- `S.phase` (R21). -/
inductive Phase where
  /-- Scanning for the start marker. -/
  | idle
  /-- Accumulating a candidate frame. -/
  | capturing
  deriving DecidableEq, Repr

/-- The events of R201, which label an operation's outcome; they change no state and drive no port. -/
inductive Event where
  /-- EV_STORE: byte captured, the candidate continues. -/
  | store
  /-- EV_START: start marker in IDLE. -/
  | start
  /-- EV_JUNK: any other byte in IDLE. -/
  | junk
  /-- EV_LEN_ABORT: length byte above 70 or below 7. -/
  | lenAbort
  /-- EV_TYPE_FILTER: type byte other than 0x31. -/
  | typeFilter
  /-- EV_CRC_FAIL: completion with a nonzero residue. -/
  | crcFail
  /-- EV_FRAME_OK: completion with residue zero. -/
  | frameOk
  /-- EV_LINK_UNHEALTHY: the health check fired in a POLL. -/
  | linkUnhealthy
  deriving DecidableEq, Repr

/-- The input ports in one clock cycle (R60): what stands on them at one rising edge of `clk`. -/
structure Cycle where
  /-- `rst`. -/
  rst : Bool
  /-- `host_op` where `host_valid` is high, else none. -/
  host : Option OpWord
  /-- `rx_data` where `rx_valid` is high, else none. -/
  rx : Option Byte
  /-- `transport_open_ok`. -/
  transportOpenOk : Bool
  deriving DecidableEq, Repr

/-- The frame buffer's contents: the bytes stored since its last draw, by index, the indices strictly rising. What an index
that is not listed reads as is said once, in `byteAt` (Machine/Ops.lean). -/
abbrev Memory := List Host.Cell

/-- Everything the machine holds. The first seven fields are the tuple `S` of R20. -/
structure State where
  /-- `S.phase` (R21). -/
  phase : Phase
  /-- `S.pos`, the write position (R22). -/
  pos : Position
  /-- `S.explen`, the expected total length (R23). -/
  explen : Position
  /-- `S.buf[0..69]`, the frame buffer (R24): the bytes stored since the last reset or INIT. -/
  buf : Memory
  /-- `S.ready`, the Frame-Ready flag (R25). -/
  ready : Bool
  /-- `S.junk`, the junk counter (R26). -/
  junk : BitVec Config.junkWidth
  /-- `S.baud_valid`, the Baud-Valid flag (R27). -/
  baudValid : Bool
  /-- Output port `host_rvalid` (R60). -/
  hostRvalid : Bool
  /-- Output port `host_result` (R60, R65). -/
  hostResult : OpWord
  /-- Output port `transport_open` (R60, R191). -/
  transportOpen : Bool
  /-- Input port `transport_open_ok` in the present cycle (R60): INIT samples it. -/
  transportOpenOk : Bool
  /-- The model's own: the events emitted in the last step, in order (R201). -/
  events : List Event
  /-- The model's own: how many draws of the buffer's contents came before the present one (R24, R191). -/
  draws : Nat
  /-- The model's own: what the agents and the reset line present, next cycle first; after the last, both agents are silent
  (R48, R194). -/
  input : List Cycle
  deriving DecidableEq, Repr

/-- Why the machine stops with a fault. No state that a run from reset reaches raises one (R41, R111, R200). -/
inductive Fault where
  /-- Raised by `memWrite` and by the reads of Machine/Ops.lean: the access would touch an index that is not 0 to 69, which the
  address space does not have (R40). Safe: the machine stops. -/
  | outsideBuffer (index : Nat)
  deriving DecidableEq, Repr

/-- Why an instruction is refused. -/
inductive Refusal where
  /-- Raised by exec's arm of an instruction that has no meaning yet. Safe. -/
  | notModelled (mnemonic : String)
  /-- Raised by the step for a reserved word on the HOST port, to which R63 gives no behaviour: "a model refuses them". Safe. -/
  | reservedWord (why : Reject)
  deriving DecidableEq, Repr

/-- The machine right after reset (R220): nothing stored in the buffer, whose bytes are the draw number 0; output ports low. -/
def State.reset : State where
  phase := .idle
  pos := 0#7
  explen := BitVec.ofNat 7 Config.minLen
  buf := []
  ready := false
  junk := 0#Config.junkWidth
  baudValid := false
  hostRvalid := false
  hostResult := 0#16
  transportOpen := false
  transportOpenOk := false
  events := []
  draws := 0
  input := []

end Sys2Proof.Machine
end

