-- ==== Sys2Proof/Machine/Ops.lean ====
section
/-! DEFINITION. The named operations over the frame buffer, the counters, the event label and the ports. -/

namespace Sys2Proof.Machine

/-- Run `f` on the next state of an outcome; a fault or a refusal stands. -/
def andThen (o : Host.Outcome State Fault Refusal) (f : State → Host.Outcome State Fault Refusal) :
    Host.Outcome State Fault Refusal :=
  match o with
  | .next s => f s
  | .fault r => .fault r
  | .refused r => .refused r

/-- The byte stored at index `k` since the last draw, if any. -/
def Memory.read : Memory → Nat → Option Byte
  | [], _ => none
  | (a, b) :: m, k => if a = k then some b else Memory.read m k

/-- Store one byte, keeping the indices strictly rising. -/
def Memory.write : Memory → Nat → Byte → Memory
  | [], k, v => [(k, v)]
  | (a, b) :: m, k, v =>
    if k < a then (k, v) :: (a, b) :: m
    else if k = a then (k, v) :: m
    else (a, b) :: Memory.write m k v

/-- Every listed index is above `lo` (if given), the indices rise strictly, and each is inside the buffer. -/
def Memory.risesFrom : Nat → Memory → Bool
  | _, [] => true
  | lo, (a, _) :: m => decide (lo ≤ a) && decide (a < Config.maxLen) && Memory.risesFrom (a + 1) m

/-- The canonical form of the buffer: indices strictly rising, all 0 to 69 (R40). -/
def Memory.wf (m : Memory) : Bool := Memory.risesFrom 0 m

/-- What buffer index `k` reads as: the byte stored there last, or the draw of the last reset or INIT (R24). -/
def byteAt (s : State) (k : Nat) : Byte := (s.buf.read k).getD (Config.bufDraw s.draws k)

/-- The bytes `buf[k] .. buf[k+n-1]`, lowest index first; none where an index would fall outside 0 to 69 (R40, R41). -/
def readRange (s : State) (k n : Nat) : Option (List Byte) :=
  if k + n ≤ Config.maxLen then some ((List.range n).map (fun j => byteAt s (k + j))) else none

/-- The number whose bytes are listed, the byte at the lower index the less significant (R9, R42). -/
def littleEndian : List Byte → Nat
  | [] => 0
  | b :: bs => b.toNat + 256 * littleEndian bs

/-- `MemRead(k, n)` (R9, R41). -/
def memRead (s : State) (k n : Nat) : Option Nat := (readRange s k n).map littleEndian

/-- `MemWrite(k, 1, v)` (R9, R41). -/
def memWrite (k : Nat) (v : Byte) (s : State) : Host.Outcome State Fault Refusal :=
  if k < Config.maxLen then .next { s with buf := s.buf.write k v } else .fault (.outsideBuffer k)

/-- The code of an event (R201). -/
def Event.code : Event → Nat
  | .store => 0
  | .start => 1
  | .junk => 2
  | .lenAbort => 3
  | .typeFilter => 4
  | .crcFail => 5
  | .frameOk => 6
  | .linkUnhealthy => 7

/-- `emit E`: label the outcome (R9, R201). -/
def emit (e : Event) (s : State) : State := { s with events := s.events ++ [e] }

/-- `S.junk <- (S.junk + n) mod 2^JUNK_WIDTH` (R8, R112). -/
def addJunk (n : Nat) (s : State) : State := { s with junk := s.junk + BitVec.ofNat Config.junkWidth n }

/-- A HOST operation's `return v`: `host_rvalid` and `host_result` in the next cycle (R60, R65, R233). -/
def answer (v : OpWord) (s : State) : State := { s with hostRvalid := true, hostResult := v }

/-- Every field of `S` at its reset value, the buffer a fresh draw: shared by reset (R220) and INIT (R191). -/
def initialise (s : State) : State :=
  { s with
    phase := .idle
    pos := 0#7
    explen := BitVec.ofNat 7 Config.minLen
    buf := []
    ready := false
    junk := 0#Config.junkWidth
    baudValid := false
    draws := s.draws + 1 }

end Sys2Proof.Machine
end

