-- ==== Sys2Proof/Machine/Flags.lean ====
section
/-! DEFINITION. The two flags, Frame-Ready and Baud-Valid, and the condition the health check computes (R25, R27, R180). -/

namespace Sys2Proof.Machine

/-- `S.ready <- 0`: a consuming read or an accepted start marker (R101, R163). -/
def clearReady (s : State) : State := { s with ready := false }

/-- `S.baud_valid <- 1; S.ready <- 1`: a completion whose CRC passes (R106). -/
def markValid (s : State) : State := { s with baudValid := true, ready := true }

/-- No frame ever validated and the junk count strictly above the threshold (R180, R181). -/
def linkUnhealthy (s : State) : Bool := !s.baudValid && decide (Config.junkThreshold < s.junk.toNat)

end Sys2Proof.Machine
end

