-- ==== Sys2Proof/Machine/Operands.lean ====
section
/-! DEFINITION. Operand and result forms: the channel index, the channel field in the buffer and its conversion (R64, R65, R70,
R164, R165), and the length byte. -/

namespace Sys2Proof.Machine

/-- The channel an index selects, unsigned, never scaled or sign-extended (R64). -/
def channelIndex (index : Byte) : Nat := index.toNat

/-- The buffer index of a channel's low byte, whatever the frame's length (R164). -/
def channelOffset (channel : Nat) : Nat := Config.chOffset + Config.chBytes * channel

/-- Ticks of 1/8 microsecond to microseconds, exact on naturals (R165). -/
def toMicroseconds (raw : Nat) : Nat := (raw + Config.roundAdd) / Config.ticksPerUs

/-- A number on `host_result`, zero-extended (R65, R166). -/
def resultWord (v : Nat) : OpWord := BitVec.ofNat 16 v

/-- POLL's result: bit 1 retry, bit 0 ready, bits 15:2 zero (R65, R190). -/
def pollWord (retry ready : Bool) : OpWord := 0#14 ++ BitVec.ofBool retry ++ BitVec.ofBool ready

/-- INIT's result: bit 0 ok, bits 15:1 zero (R65, R191). -/
def initWord (ok : Bool) : OpWord := 0#15 ++ BitVec.ofBool ok

/-- The length byte is outside 7 to 70 (R104). -/
def lengthOutOfRange (b : Byte) : Bool := decide (Config.maxLen < b.toNat ∨ b.toNat < Config.minLen)

/-- A byte as an expected length: `S.explen <- b`, seven bits (R8, R104). -/
def lengthOf (b : Byte) : Position := b.setWidth 7

end Sys2Proof.Machine
end

