-- ==== Sys2Proof/Machine/ChannelDecoder.lean ====
section
/-! DEFINITION. The ChannelDecoder (spec/43_channel_decoder.md): RDCH, read one channel. -/

namespace Sys2Proof.Machine

/-- RDCH (R160): out of range (R161), no frame ready (R162), or the consuming read (R163 to R165). -/
def execRdch (index : Byte) (s : State) : Host.Outcome State Fault Refusal :=
  if Config.numCh ≤ channelIndex index then
    .next (answer Config.defaultValue (if Config.oorReadConsumes then clearReady s else s))
  else if s.ready = false then .next (answer Config.defaultValue s)
  else
    match memRead s (channelOffset (channelIndex index)) Config.chBytes with
    | none => .fault (.outsideBuffer (channelOffset (channelIndex index)))
    | some raw => .next (answer (resultWord (toMicroseconds raw)) (clearReady s))

end Sys2Proof.Machine
end

