-- ==== Sys2Proof/Machine/LinkHealth.lean ====
section
/-! DEFINITION. The LinkHealthMonitor (spec/44_link_health.md): the check that runs inside every POLL. -/

namespace Sys2Proof.Machine

/-- The state the health check leaves (R180): the junk counter at zero where it fires, else nothing changed (R183). -/
def healthCheck (s : State) : State :=
  if linkUnhealthy s then emit .linkUnhealthy { s with junk := 0#Config.junkWidth } else s

end Sys2Proof.Machine
end

