-- ==== Sys2Proof/Machine/DriverFacade.lean ====
section
/-! DEFINITION. The block side of the DriverFacade (spec/45_driver_facade.md): POLL and INIT. Its read is RDCH. -/

namespace Sys2Proof.Machine

/-- POLL (R190): the ready bit and the retry bit; a frame is not consumed. -/
def execPoll (s : State) : Host.Outcome State Fault Refusal :=
  .next (answer (pollWord (linkUnhealthy s) s.ready) (healthCheck s))

/-- INIT (R191): every field of `S` to its reset value, `transport_open` for one cycle, and the transport's answer. -/
def execInit (s : State) : Host.Outcome State Fault Refusal :=
  .next (answer (initWord s.transportOpenOk) { initialise s with transportOpen := true })

end Sys2Proof.Machine
end

