-- ==== Sys2Proof/Machine/CrcValidator.lean ====
section
/-! DEFINITION. The CrcValidator (spec/42_crc_validator.md): the pure CRC-16 function RXB calls at a completion. -/

namespace Sys2Proof.Machine

/-- One of the eight shifts of the bit-serial update (R141). -/
def crcShift (c : CrcReg) : CrcReg :=
  if c.getLsbD 0 then (c >>> 1) ^^^ Config.crcPolyReflected else c >>> 1

/-- `n` shifts. -/
def crcShifts : Nat → CrcReg → CrcReg
  | 0, c => c
  | n + 1, c => crcShifts n (crcShift c)

/-- `crc_update`, bit-serial form (R141). -/
def crcUpdate (c : CrcReg) (b : Byte) : CrcReg := crcShifts 8 (c ^^^ b.setWidth Config.crcWidth)

/-- `crc_update`, byte form (R142): the same function with no loop. -/
def crcUpdateByteForm (c : CrcReg) (b : Byte) : CrcReg :=
  let d0 : Byte := b ^^^ c.extractLsb' 0 8
  let d : Byte := d0 ^^^ (d0 <<< 4)
  ((d ++ c.extractLsb' 8 (Config.crcWidth - 8) : CrcReg) ^^^ (d >>> 4).setWidth Config.crcWidth) ^^^
    (d.setWidth Config.crcWidth <<< 3)

/-- The register after a byte sequence, from a given start value. -/
def crcFrom (c : CrcReg) : List Byte → CrcReg
  | [] => c
  | b :: bs => crcFrom (crcUpdate c b) bs

/-- `crc16` (R140, R143): no final exclusive-or and no reflection. -/
def crc16 (bytes : List Byte) : CrcReg := crcFrom Config.crcInit bytes

/-- The two trailer bytes a sender appends, low byte first (R43, R145). -/
def trailer (m : List Byte) : List Byte := [(crc16 m).extractLsb' 0 8, (crc16 m).extractLsb' 8 8]

/-- The residue over `S.buf[0 .. len)` (R140, R144). -/
def residue (s : State) (len : Nat) : Option CrcReg := (readRange s 0 len).map crc16

end Sys2Proof.Machine
end

