-- ==== Sys2Proof/Machine/FrameAssembler.lean ====
section
/-! DEFINITION. The FrameAssembler (spec/41_frame_assembler.md): RXB, one received byte. -/

namespace Sys2Proof.Machine

/-- IDLE, start marker (R101). -/
def startCandidate (b : Byte) (s : State) : Host.Outcome State Fault Refusal :=
  andThen (memWrite 0 b { s with phase := .capturing, pos := 0#7 }) fun s =>
    .next (emit .start (clearReady { s with pos := 1#7, explen := BitVec.ofNat 7 Config.minLen }))

/-- IDLE, any other byte (R102). -/
def discardByte (s : State) : State := emit .junk (addJunk 1 s)

/-- Length byte out of range: back to IDLE (R104). -/
def abortOnLength (s : State) : State :=
  let s := { s with phase := .idle }
  emit .lenAbort (if Config.lengthAbortChargesJunk then addJunk Config.lengthAbortCharge s else s)

/-- Frame type other than RC data: back to IDLE (R105). -/
def filterOnType (s : State) : State := emit .typeFilter { s with phase := .idle }

/-- The position has reached the expected length: the CRC decides (R106, R107). -/
def complete (s : State) : Host.Outcome State Fault Refusal :=
  let s := { s with phase := .idle }
  match residue s s.explen.toNat with
  | none => .fault (.outsideBuffer s.explen.toNat)
  | some c =>
    if c = 0#Config.crcWidth then .next (emit .frameOk (markValid s))
    else .next (emit .crcFail (addJunk s.explen.toNat s))

/-- Advance the position past a captured byte, and complete the candidate where it ends (R100). -/
def advance (s : State) : Host.Outcome State Fault Refusal :=
  let s := { s with pos := s.pos + 1#7 }
  if s.pos = s.explen then complete s else .next (emit .store s)

/-- CAPTURING, after the byte is stored at `S.pos`: the length check, the type check, the advance (R103 to R107). -/
def checkCaptured (b : Byte) (s : State) : Host.Outcome State Fault Refusal :=
  if s.pos.toNat = Config.lenPos then
    if lengthOutOfRange b then .next (abortOnLength s) else advance { s with explen := lengthOf b }
  else if s.pos.toNat = Config.typePos ∧ b ≠ Config.typeRc then .next (filterOnType s)
  else advance s

/-- RXB (R100). -/
def execRxb (b : Byte) (s : State) : Host.Outcome State Fault Refusal :=
  match s.phase with
  | .idle => if b = Config.startMarker then startCandidate b s else .next (discardByte s)
  | .capturing => andThen (memWrite s.pos.toNat b s) (checkCaptured b)

end Sys2Proof.Machine
end

