-- ==== Sys2Proof/Machine/Dispatch.lean ====
section
/-! DEFINITION. One arm per operation. -/

namespace Sys2Proof.Machine

def exec (i : Instr) (s : State) : Host.Outcome State Fault Refusal :=
  match i with
  | .rxb b => Sys2Proof.Machine.execRxb b s
  | .poll => Sys2Proof.Machine.execPoll s
  | .rdch index => Sys2Proof.Machine.execRdch index s
  | .init => Sys2Proof.Machine.execInit s

end Sys2Proof.Machine
end

