-- ==== Sys2Proof/Machine/Ports.lean ====
section
/-! DEFINITION. One clock cycle at the ports (spec/30_encoding.md R60): reset first, else the HOST operation and then the
received byte (R49, R204, R220). -/

namespace Sys2Proof.Machine

/-- A cycle in which both agents are silent (R194), the line `transport_open_ok` as it stands. -/
def silentCycle (s : State) : Cycle := ⟨false, none, none, s.transportOpenOk⟩

/-- What stands on the input ports in the next cycle. -/
def nextCycle (s : State) : Cycle :=
  match s.input with
  | [] => silentCycle s
  | c :: _ => c

/-- The start of a cycle: its input taken up and the one-cycle outputs back at zero (R60). -/
def beginCycle (s : State) : State :=
  { s with
    input := s.input.tail
    transportOpenOk := (nextCycle s).transportOpenOk
    hostRvalid := false
    hostResult := 0#16
    transportOpen := false
    events := [] }

/-- The HOST port: nothing, a reserved word, which is refused (R63), or an operation. -/
def runHost (host : Option OpWord) (s : State) : Host.Outcome State Fault Refusal :=
  match host with
  | none => .next s
  | some w =>
    match decodeHost w with
    | .error why => .refused (.reservedWord why)
    | .ok i => exec i s

/-- The RX port: nothing, or one byte, any value of which is legal (R63). -/
def runRx (rx : Option Byte) (s : State) : Host.Outcome State Fault Refusal :=
  match rx with
  | none => .next s
  | some b => exec (.rxb b) s

/-- One cycle on the state `beginCycle` leaves: a reset discards both ports (R220); else HOST first, RX second (R49). -/
def runCycle (c : Cycle) (s : State) : Host.Outcome State Fault Refusal :=
  if c.rst then .next (initialise s) else andThen (runHost c.host s) (runRx c.rx)

/-- The cycle in which the agent that may issue it issues one operation (R62): an RXB on the RX port, any other word on the
HOST port. -/
def cycleOfWord (w : OpWord) (transportOpenOk : Bool) : Cycle :=
  match decode w with
  | .ok (.rxb b) => ⟨false, none, some b, transportOpenOk⟩
  | _ => ⟨false, some w, none, transportOpenOk⟩

/-- The cycle of one issue of a program (R66), its operation encoded. -/
def cycleOfIssue (x : Issue) (transportOpenOk : Bool) : Cycle :=
  match x with
  | .op i => cycleOfWord (encode i) transportOpenOk
  | .reset => ⟨true, none, none, transportOpenOk⟩

end Sys2Proof.Machine
end

