-- ==== Sys2Proof/Machine/Step.lean ====
section
/-! DEFINITION. One step of the machine is one clock cycle (R60, R232). -/

namespace Sys2Proof.Machine

/-- One clock cycle: the input presented next, run on the state as the cycle begins. -/
def step (s : State) : Host.Outcome State Fault Refusal := runCycle (nextCycle s) (beginCycle s)

/-- The state in which the very next cycle issues the operation word `w` and nothing else. The block has no program counter
(R31): an operation is presented by its agent, so this puts it at the head of the input (notes/assumptions/1.md). -/
def State.withFetchWord (s : State) (nbits w : Nat) : State :=
  { s with input := cycleOfWord (tableWord nbits w) s.transportOpenOk :: s.input }

end Sys2Proof.Machine
end

