-- ==== Sys2Proof/Machine/Assembler.lean ====
section
/-! DEFINITION. The assembler of R66: one operation a line, `;` starts a comment, numbers decimal or `0x` hexadecimal, and the
pseudo-operations FRAME, REP and RESET, which expand before encoding. A text is a list of characters. -/

namespace Sys2Proof.Machine

/-- The operation an assembler operation stands for; its number is 0 to 255 where the line is well formed. -/
def asmInstr : AsmOp → Instr
  | .rxb n => .rxb (BitVec.ofNat 8 n)
  | .poll => .poll
  | .rdch n => .rdch (BitVec.ofNat 8 n)
  | .init => .init

/-- The expansion of a line (R66). -/
def expandLine : AsmLine → List Issue
  | .op o => [.op (asmInstr o)]
  | .frame bytes => bytes.map (fun n => .op (.rxb (BitVec.ofNat 8 n)))
  | .rep n o => List.replicate n (.op (asmInstr o))
  | .reset => [.reset]

/-- The value of a digit, decimal or hexadecimal. -/
def digitValue (c : Char) : Option Nat :=
  let n := c.toNat
  if 48 ≤ n ∧ n ≤ 57 then some (n - 48)
  else if 65 ≤ n ∧ n ≤ 70 then some (n - 55)
  else if 97 ≤ n ∧ n ≤ 102 then some (n - 87)
  else none

/-- The digits of a number in a base, the most significant first. -/
def digitsValue (base : Nat) : Nat → List Char → Option Nat
  | acc, [] => some acc
  | acc, c :: cs =>
    match digitValue c with
    | none => none
    | some d => if d < base then digitsValue base (base * acc + d) cs else none

/-- A number: `0x` and hexadecimal digits, or decimal digits; at least one digit. -/
def numberValue : List Char → Option Nat
  | [] => none
  | ['0', 'x'] => none
  | '0' :: 'x' :: ds => digitsValue 16 0 ds
  | ds => digitsValue 10 0 ds

/-- All of a list of numbers, or none. -/
def numberValues : List (List Char) → Option (List Nat)
  | [] => some []
  | t :: ts =>
    match numberValue t, numberValues ts with
    | some n, some ns => some (n :: ns)
    | _, _ => none

/-- What stands before a comment. -/
def beforeComment (line : List Char) : List Char := line.takeWhile (fun c => c != ';')

/-- The words of a line, apart at spaces and tabs; a comma is a word of its own. `word` holds the present word, last character
first. -/
def wordsFrom (word : List Char) : List Char → List (List Char)
  | [] => if word.isEmpty then [] else [word.reverse]
  | c :: cs =>
    let done := if word.isEmpty then [] else [word.reverse]
    if c = ' ' ∨ c = '\t' ∨ c = '\r' then done ++ wordsFrom [] cs
    else if c = ',' then done ++ [','] :: wordsFrom [] cs
    else wordsFrom (c :: word) cs

/-- An operation from its words. -/
def parseOp : List (List Char) → Option AsmOp
  | [['P', 'O', 'L', 'L']] => some .poll
  | [['I', 'N', 'I', 'T']] => some .init
  | [['R', 'X', 'B'], n] => (numberValue n).map .rxb
  | [['R', 'D', 'C', 'H'], n] => (numberValue n).map .rdch
  | _ => none

/-- A line from its words. R66 does not say whether the `<op>` of `REP n, <op>` may be a pseudo-operation: that it is RXB, POLL,
RDCH or INIT alone, and any other such line has no meaning, is the model's choice (DESIGN CHOICE, notes/assumptions/12.md). -/
def parseWords : List (List Char) → Option AsmLine
  | [['R', 'E', 'S', 'E', 'T']] => some .reset
  | ['F', 'R', 'A', 'M', 'E'] :: bytes => (numberValues bytes).map .frame
  | ['R', 'E', 'P'] :: n :: [','] :: o =>
    match numberValue n, parseOp o with
    | some n, some o => some (.rep n o)
    | _, _ => none
  | ws => (parseOp ws).map .op

/-- The issues of one line of text: none where the line is no well-formed line, no issue where it is blank. -/
def assembleLine (line : List Char) : Option (List Issue) :=
  match wordsFrom [] (beforeComment line) with
  | [] => some []
  | ws =>
    match parseWords ws with
    | none => none
    | some l => if l.wellFormed then some (expandLine l) else none

/-- The issues of a program, line by line: `line` holds the present line, last character first. -/
def assembleFrom (line : List Char) : List Char → Option (List Issue)
  | [] => assembleLine line.reverse
  | c :: cs =>
    if c = '\n' then
      match assembleLine line.reverse, assembleFrom [] cs with
      | some xs, some ys => some (xs ++ ys)
      | _, _ => none
    else assembleFrom (c :: line) cs

/-- The issues a program text stands for (R66). -/
def assemble (text : List Char) : Option (List Issue) := assembleFrom [] text

/-- A program presented one issue a cycle, with the line `transport_open_ok` at one level throughout. -/
def inputOf (program : List Issue) (transportOpenOk : Bool) : List Cycle :=
  program.map (fun x => cycleOfIssue x transportOpenOk)

end Sys2Proof.Machine
end

