-- ==== Sys2Proof/Safety.lean ====
section
/-! DEFINITION. The terms claims are stated in: the invariant of R29, what the agents owe (R194), runs of operations, and what
two states share. -/

namespace Sys2Proof.Machine

/-- The invariant of R29, items 1 to 3 and 5, with what makes it hold from step to step: the length and type bytes of the
candidate being captured, that every byte of a candidate or of a ready frame was stored (so that no draw stands among them),
the canonical form of the buffer, and the idle values of the output ports (R60). -/
structure Inv (s : State) : Prop where
  /-- The buffer's canonical form: every store is at an index 0 to 69 (item 5). -/
  bufWf : s.buf.wf = true
  /-- Item 1. -/
  explenRange : 7 ≤ s.explen.toNat ∧ s.explen.toNat ≤ 70
  /-- Item 5. -/
  posRange : s.pos.toNat ≤ 70
  /-- Item 2. -/
  capturing : s.phase = .capturing →
    1 ≤ s.pos.toNat ∧ s.pos.toNat ≤ s.explen.toNat - 1 ∧ byteAt s 0 = 0x3E#8 ∧ s.ready = false
  /-- The candidate so far: length 7 until the length byte, that byte's value from then on, and type 0x31 past offset 4. -/
  candidate : s.phase = .capturing →
    (s.pos.toNat ≤ 2 → s.explen.toNat = 7) ∧ (2 < s.pos.toNat → (byteAt s 2).toNat = s.explen.toNat) ∧
    (4 < s.pos.toNat → byteAt s 4 = 0x31#8) ∧ ∀ k, k < s.pos.toNat → (s.buf.read k).isSome
  /-- Item 3. -/
  readyFrame : s.ready = true →
    s.phase = .idle ∧ s.baudValid = true ∧ byteAt s 0 = 0x3E#8 ∧ (byteAt s 2).toNat = s.explen.toNat ∧
    byteAt s 4 = 0x31#8 ∧ residue s s.explen.toNat = some 0#Config.crcWidth ∧ ∀ k, k < s.explen.toNat → (s.buf.read k).isSome
  /-- `host_result` is 0 and `transport_open` low while `host_rvalid` is low. -/
  ports : s.hostRvalid = false → s.hostResult = 0#16 ∧ s.transportOpen = false

/-- The HOST's duty in a cycle (R194): no reserved word. That the duty does not reach a word presented under reset, which is
discarded, is the model's deduction from R220 (DEDUCED, notes/assumptions/7.md). -/
def hostDuty (c : Cycle) : Bool :=
  c.rst || match c.host with
    | none => true
    | some w => (decodeHost w).toBool

/-- Whether a cycle's HOST operation is an INIT that the transport does not answer. -/
def initFails (c : Cycle) : Bool :=
  match c.host with
  | none => false
  | some w => decide (decodeHost w = .ok .init) && !c.transportOpenOk

/-- Whether a cycle's HOST operation is an INIT that the transport answers. -/
def initOpens (c : Cycle) : Bool :=
  match c.host with
  | none => false
  | some w => decide (decodeHost w = .ok .init) && c.transportOpenOk

/-- The RX agent's duty over the cycles to come (R194): nothing delivered after an INIT that returned 0; HOST is first in a
cycle (R49). `silent` says that such an INIT came before. When this silence ends the spec leaves open: R191, R193 and R194 give no
end. That a later INIT with ok = 1, or any reset, ends it is the model's choice (DESIGN CHOICE, notes/assumptions/15.md). -/
def rxDuty : Bool → List Cycle → Bool
  | _, [] => true
  | silent, c :: cs =>
    if c.rst then rxDuty false cs
    else if initFails c then c.rx.isNone && rxDuty true cs
    else if initOpens c then rxDuty false cs
    else (!silent || c.rx.isNone) && rxDuty silent cs

/-- Every HOST word to come is one the host may issue. -/
def hostDuties (cs : List Cycle) : Bool := cs.all hostDuty

/-- A list of operations run one after the other, in the order of R48. -/
def runOps : List Instr → State → Host.Outcome State Fault Refusal
  | [], s => .next s
  | i :: is, s => andThen (exec i s) (runOps is)

/-- A byte sequence fed one RXB a byte, in arrival order: the pseudo-operation FRAME (R53, R66). -/
def feed (bytes : List Byte) (s : State) : Host.Outcome State Fault Refusal := runOps (bytes.map .rxb) s

/-- A safe run: `n` cycles with no fault and no refusal. -/
def safeFor (n : Nat) (s : State) : Prop := ∃ t, Sys2Proof.core.run n s = .next t

/-- Two states share the tuple `S` of R20, byte for byte. -/
structure SameBlock (s t : State) : Prop where
  phase : s.phase = t.phase
  pos : s.pos = t.pos
  explen : s.explen = t.explen
  bytes : ∀ k, byteAt s k = byteAt t k
  ready : s.ready = t.ready
  junk : s.junk = t.junk
  baudValid : s.baudValid = t.baudValid

/-- Two states share the output ports, the sampled input port and the input to come. -/
structure SamePorts (s t : State) : Prop where
  hostRvalid : s.hostRvalid = t.hostRvalid
  hostResult : s.hostResult = t.hostResult
  transportOpen : s.transportOpen = t.transportOpen
  transportOpenOk : s.transportOpenOk = t.transportOpenOk
  input : s.input = t.input

/-- Every buffer index reads as before. -/
def SameBytes (s t : State) : Prop := ∀ k, byteAt t k = byteAt s k

/-- Every buffer index but `k` reads as before. -/
def SameBytesBut (k : Nat) (s t : State) : Prop := ∀ j, j ≠ k → byteAt t j = byteAt s j

/-- The bytes of a whole frame as R67 lays it out: start marker, its own length, type RC data. The trailer is apart. -/
def frameShape (f : List Byte) : Prop :=
  7 ≤ f.length ∧ f.length ≤ 70 ∧ f[0]? = some 0x3E#8 ∧ (f[2]?.map BitVec.toNat) = some f.length ∧ f[4]? = some 0x31#8

/-- Two states agree on what a host can tell states apart by (R30): `S.ready`, the health check's answer, the pin INIT samples,
and, only while `S.ready = 1`, the bytes RDCH can reach. -/
structure SameToHost (s t : State) : Prop where
  ready : s.ready = t.ready
  unhealthy : linkUnhealthy s = linkUnhealthy t
  bytes : s.ready = true → ∀ k, 6 ≤ k → k ≤ 37 → byteAt s k = byteAt t k
  transportOpenOk : s.transportOpenOk = t.transportOpenOk

/-- Two states that differ at most in what no rule reads in IDLE: `S.pos` and `S.explen` while the phase is IDLE (R113), and in
the label of the last step. -/
structure SameButIdleHidden (s t : State) : Prop where
  phase : s.phase = t.phase
  hidden : s.phase = .capturing → s.pos = t.pos ∧ s.explen = t.explen
  buf : s.buf = t.buf
  ready : s.ready = t.ready
  junk : s.junk = t.junk
  baudValid : s.baudValid = t.baudValid
  ports : SamePorts s t
  draws : s.draws = t.draws

end Sys2Proof.Machine
end

