-- ==== Sys2Proof/Certificates/Slice0/Obligations.lean ====
section
/-! DEFINITION. The statements for the provers, in the order of OBLIGATIONS.json. A docstring names the rule a statement
formalises, or, where the rule is a decision or a derivation the spec marks as its own, that decision. -/

open Sys2Proof Sys2Proof.Machine

/-! ## Encoding and decoding -/

/-- Decoding an encoded operation gives it back, for every operand, and every word that decodes is the encoding of what it
decodes to, so no word has two meanings. The encoding is the spec's own choice (decision D3; R61, R62, R64). -/
def Obligations.DecodeAndEncodeAgree : Prop :=
  (∀ i : Instr, decode (encode i) = .ok i) ∧
  ∀ (w : OpWord) (i : Instr), decode w = .ok i → encode i = w

/-- A word decodes exactly when it matches one row of the opcode table, that row is the operation's, and then no other row
matches; a word that matches no row is rejected (R62, R63; decisions D3, D17). -/
def Obligations.DecodeFollowsTheOpcodeTable : Prop :=
  ∀ w : OpWord,
    (∀ i : Instr, decode w = .ok i → ∀ r ∈ opcodeTable, (r.matchesWord w = true ↔ r = i.row)) ∧
    ((∃ why, decode w = .error why) ↔ ∀ r ∈ opcodeTable, r.matchesWord w = false)

/-- Words written out bit by bit from R62's patterns decode to the operations they stand for (decision D3). -/
def Obligations.WrittenOutWordsDecode : Prop :=
  decode 0b0001000000111110#16 = .ok (.rxb 0x3E#8) ∧ decode 0b0010000000000000#16 = .ok .poll ∧
  decode 0b0011000000001111#16 = .ok (.rdch 15#8) ∧ decode 0b0011000011111111#16 = .ok (.rdch 255#8) ∧
  decode 0b0100000000000000#16 = .ok .init

/-- A word on the HOST port with a reserved opcode, with `rsv` not zero, that is POLL or INIT with an operand, or that has
opcode 0x1, is refused; no other word is (R63; decision D17). That the whole step is refused, whatever byte stands on the RX port
in the same cycle, is the model's choice (notes/assumptions/6.md). -/
def Obligations.ReservedHostWordIsRefused : Prop :=
  ∀ (s : State) (w : OpWord),
    let reserved := opcField w = 0#4 ∨ 5 ≤ (opcField w).toNat ∨ rsvField w ≠ 0#4 ∨
      ((opcField w = 2#4 ∨ opcField w = 4#4) ∧ argField w ≠ 0#8) ∨ opcField w = 1#4
    (reserved → ∀ (rx : Option Byte) (ok : Bool) (rest : List Cycle), s.input = ⟨false, some w, rx, ok⟩ :: rest →
      ∃ why, step s = .refused (.reservedWord why)) ∧
    (¬reserved → ∃ i : Instr, i.agent = .host ∧ decodeHost w = .ok i)

/-! ## Steps -/

/-- A cycle that presents one operation, an operation word on the HOST port or a byte on the RX port, runs that operation on
the state as the cycle begins: the input taken up, `transport_open_ok` sampled, the one-cycle outputs back at zero and no event
yet (R48, R60, R61; decisions D2 to D4). -/
def Obligations.StepRunsTheIssuedOperation : Prop :=
  ∀ (s : State) (ok : Bool) (rest : List Cycle),
    let begun : State := { s with
      input := rest, transportOpenOk := ok, hostRvalid := false, hostResult := 0#16, transportOpen := false, events := [] }
    (∀ (w : OpWord) (i : Instr), decode w = .ok i → i.agent = .host →
      s.input = ⟨false, some w, none, ok⟩ :: rest → step s = exec i begun) ∧
    (∀ b : Byte, s.input = ⟨false, none, some b, ok⟩ :: rest → step s = exec (.rxb b) begun)

/-- The word of every row of the opcode table, placed by `withFetchWord`, is run by the very next step, and the input that
stood there before is what is left (notes/assumptions/1.md). -/
def Obligations.PlacedWordIsRunNext : Prop :=
  ∀ (s : State) (nbits w : Nat) (i : Instr), decodeTableWord nbits w = some i →
    step (s.withFetchWord nbits w) = exec i { s with
      hostRvalid := false, hostResult := 0#16, transportOpen := false, events := [] }

/-- A byte and a HOST operation in one cycle have the effect of the HOST operation in one cycle and the byte in the next, on
the tuple `S`; the operation's result and the `transport_open` pulse are those of the HOST operation alone, and the events of
the two stand in that order (R49, R204; decision D4). -/
def Obligations.SameCycleIsHostThenByte : Prop :=
  ∀ (s : State) (w : OpWord) (b : Byte) (ok : Bool) (rest : List Cycle) (t : State),
    s.input = ⟨false, some w, some b, ok⟩ :: rest → step s = .next t →
      ∃ u v : State,
        step { s with input := ⟨false, some w, none, ok⟩ :: ⟨false, none, some b, ok⟩ :: rest } = .next u ∧
        step u = .next v ∧ SameBlock t v ∧ t.draws = v.draws ∧ t.input = v.input ∧
        t.hostRvalid = u.hostRvalid ∧ t.hostResult = u.hostResult ∧ t.transportOpen = u.transportOpen ∧
        t.events = u.events ++ v.events

/-- A cycle with `rst` high leaves every field at its reset value and the outputs low, the buffer a fresh draw, and discards the
byte and the HOST operation that stand on the ports (R220; decisions D13, D14). That a reserved word is discarded too is the
model's deduction, which R220 does not state by name (DEDUCED, notes/assumptions/7.md). -/
def Obligations.ResetDiscardsBothPorts : Prop :=
  ∀ (s : State) (host : Option OpWord) (rx : Option Byte) (ok : Bool) (rest : List Cycle),
    s.input = ⟨true, host, rx, ok⟩ :: rest →
      step s = .next { State.reset with draws := s.draws + 1, input := rest, transportOpenOk := ok }

/-- While both agents are silent and `rst` is low, for however many cycles, in the middle of a candidate as elsewhere and whatever
comes after, the tuple `S` stays as it is: there is no timeout (R33, R116, R207; derived by the spec from R100). The outputs are
back at zero after one such cycle (R60). That both agents are silent past the last listed cycle is notes/assumptions/8.md. -/
def Obligations.SilenceChangesNothing : Prop :=
  ∀ (n : Nat) (s : State), (∀ c ∈ s.input.take n, c.rst = false ∧ c.host = none ∧ c.rx = none) →
    ∃ t : State, Sys2Proof.core.run n s = .next t ∧ SameBlock s t ∧ t.draws = s.draws ∧ t.input = s.input.drop n ∧
      (0 < n → t.hostRvalid = false ∧ t.hostResult = 0#16 ∧ t.transportOpen = false ∧ t.events = [])

/-- The cycles of a FRAME line run, one a byte, as the bytes fed one after the other (R53, R66; decision D3). -/
def Obligations.FrameLineFeedsItsBytes : Prop :=
  ∀ (bytes : List Nat) (ok : Bool) (s : State), Inv s →
    s.input = inputOf (expandLine (.frame bytes)) ok →
      ∃ t u : State, Sys2Proof.core.run bytes.length s = .next t ∧
        feed (bytes.map (BitVec.ofNat 8)) s = .next u ∧ SameBlock t u ∧ t.draws = u.draws

/-! ## RXB -/

/-- R101 and decision D5: in IDLE the start marker is stored at index 0 and enters CAPTURING with position 1 and expected length
7; `S.ready` is cleared, and nothing else changes. -/
def Obligations.StartMarkerEntersCapturing : Prop :=
  ∀ s : State, s.phase = .idle →
    ∃ t : State, exec (.rxb 0x3E#8) s = .next t ∧ t.phase = .capturing ∧ t.pos = 1#7 ∧ t.explen = 7#7 ∧
      byteAt t 0 = 0x3E#8 ∧ SameBytesBut 0 s t ∧ t.ready = false ∧ t.junk = s.junk ∧ t.baudValid = s.baudValid ∧
      SamePorts s t ∧ t.draws = s.draws ∧ t.events = s.events ++ [.start]

/-- R102: in IDLE any other byte is discarded and the junk counter increases by 1 (its 32-bit wrap is decision D11). -/
def Obligations.OtherByteInIdleIsJunk : Prop :=
  ∀ (b : Byte) (s : State), s.phase = .idle → b ≠ 0x3E#8 →
    ∃ t : State, exec (.rxb b) s = .next t ∧ t.phase = .idle ∧ t.junk = s.junk + 1#32 ∧ SameBytes s t ∧
      t.pos = s.pos ∧ t.explen = s.explen ∧ t.ready = s.ready ∧ t.baudValid = s.baudValid ∧
      SamePorts s t ∧ t.draws = s.draws ∧ t.events = s.events ++ [.junk]

/-- R100 and R103 (decision D18): a captured byte that meets no check and does not end the candidate is stored at the position,
which advances by 1; a byte 0x3E is data like any other (R110). -/
def Obligations.CapturedByteIsStored : Prop :=
  ∀ (b : Byte) (s : State), Inv s → s.phase = .capturing → s.pos.toNat ≠ 2 → (s.pos.toNat = 4 → b = 0x31#8) →
    s.pos.toNat + 1 ≠ s.explen.toNat →
      ∃ t : State, exec (.rxb b) s = .next t ∧ t.phase = .capturing ∧ t.pos.toNat = s.pos.toNat + 1 ∧ t.explen = s.explen ∧
        byteAt t s.pos.toNat = b ∧ SameBytesBut s.pos.toNat s t ∧ t.ready = s.ready ∧ t.junk = s.junk ∧
        t.baudValid = s.baudValid ∧ SamePorts s t ∧ t.draws = s.draws ∧ t.events = s.events ++ [.store]

/-- R104 (decision D6): a length byte of 7 to 70 becomes the expected length, and the candidate goes on. -/
def Obligations.LengthByteInRangeIsTaken : Prop :=
  ∀ (b : Byte) (s : State), s.phase = .capturing → s.pos = 2#7 → 7 ≤ b.toNat → b.toNat ≤ 70 →
    ∃ t : State, exec (.rxb b) s = .next t ∧ t.phase = .capturing ∧ t.pos = 3#7 ∧ t.explen.toNat = b.toNat ∧
      byteAt t 2 = b ∧ SameBytesBut 2 s t ∧ t.ready = s.ready ∧ t.junk = s.junk ∧ t.baudValid = s.baudValid ∧
      SamePorts s t ∧ t.draws = s.draws ∧ t.events = s.events ++ [.store]

/-- R104 (decisions D6, D7): a length byte above 70 or below 7 aborts the candidate; the junk counter is not charged. -/
def Obligations.LengthByteOutOfRangeAborts : Prop :=
  ∀ (b : Byte) (s : State), s.phase = .capturing → s.pos = 2#7 → 70 < b.toNat ∨ b.toNat < 7 →
    ∃ t : State, exec (.rxb b) s = .next t ∧ t.phase = .idle ∧ t.junk = s.junk ∧ t.explen = s.explen ∧
      SameBytesBut 2 s t ∧ t.ready = s.ready ∧ t.baudValid = s.baudValid ∧
      SamePorts s t ∧ t.draws = s.draws ∧ t.events = s.events ++ [.lenAbort]

/-- R105: a type byte other than 0x31 aborts the candidate silently: IDLE again, so that the next byte is scanned like any
other, the junk counter and everything an agent sees unchanged. -/
def Obligations.OtherFrameTypeIsFiltered : Prop :=
  ∀ (b : Byte) (s : State), s.phase = .capturing → s.pos = 4#7 → b ≠ 0x31#8 →
    ∃ t : State, exec (.rxb b) s = .next t ∧ t.phase = .idle ∧ t.junk = s.junk ∧ t.explen = s.explen ∧
      SameBytesBut 4 s t ∧ t.ready = s.ready ∧ t.baudValid = s.baudValid ∧
      SamePorts s t ∧ t.draws = s.draws ∧ t.events = s.events ++ [.typeFilter]

/-- R103 and R113, the spec's choice D18: the byte that aborts a candidate is stored all the same, and the position does not
advance past it. -/
def Obligations.AbortingByteIsStored : Prop :=
  ∀ (b : Byte) (s t : State), s.phase = .capturing →
    (s.pos = 2#7 ∧ (70 < b.toNat ∨ b.toNat < 7)) ∨ (s.pos = 4#7 ∧ b ≠ 0x31#8) →
      exec (.rxb b) s = .next t → byteAt t s.pos.toNat = b ∧ t.pos = s.pos ∧ t.phase = .idle

/-- R106: the byte that brings the position to the expected length completes the candidate; where the CRC of the candidate's
bytes, this one included, is zero, `S.baud_valid` and `S.ready` are set and the junk counter is not changed. -/
def Obligations.PassingCompletionSetsReady : Prop :=
  ∀ (b : Byte) (s : State), Inv s → s.phase = .capturing → s.pos.toNat + 1 = s.explen.toNat →
    crc16 ((List.range s.pos.toNat).map (byteAt s) ++ [b]) = 0#16 →
      ∃ t : State, exec (.rxb b) s = .next t ∧ t.phase = .idle ∧ t.pos = s.explen ∧ t.explen = s.explen ∧
        t.ready = true ∧ t.baudValid = true ∧ t.junk = s.junk ∧ byteAt t s.pos.toNat = b ∧
        SameBytesBut s.pos.toNat s t ∧ SamePorts s t ∧ t.draws = s.draws ∧ t.events = s.events ++ [.frameOk]

/-- R107: where the CRC is not zero the junk counter increases by the frame's length, `S.ready` stays 0 and `S.baud_valid` is
unchanged; the buffer keeps the candidate's bytes. -/
def Obligations.FailingCompletionChargesTheFrame : Prop :=
  ∀ (b : Byte) (s : State), Inv s → s.phase = .capturing → s.pos.toNat + 1 = s.explen.toNat →
    crc16 ((List.range s.pos.toNat).map (byteAt s) ++ [b]) ≠ 0#16 →
      ∃ t : State, exec (.rxb b) s = .next t ∧ t.phase = .idle ∧ t.pos = s.explen ∧ t.explen = s.explen ∧
        t.ready = false ∧ t.baudValid = s.baudValid ∧ t.junk = s.junk + BitVec.ofNat 32 s.explen.toNat ∧
        byteAt t s.pos.toNat = b ∧ SameBytesBut s.pos.toNat s t ∧ SamePorts s t ∧ t.draws = s.draws ∧
        t.events = s.events ++ [.crcFail]

/-- R144: a candidate is valid exactly when the CRC of all its bytes, the trailer's among them, is zero. -/
def Obligations.CandidateIsValidExactlyWhenResidueIsZero : Prop :=
  ∀ (b : Byte) (s t : State), Inv s → s.phase = .capturing → s.pos.toNat + 1 = s.explen.toNat →
    exec (.rxb b) s = .next t →
      (t.ready = true ↔ crc16 ((List.range s.explen.toNat).map (byteAt t)) = 0#16)

/-- R108, derived by the spec from R100: each RXB has exactly one of seven outcomes, each on its own condition. -/
def Obligations.EachByteHasExactlyOneOutcome : Prop :=
  ∀ (b : Byte) (s : State), Inv s →
    let ends := s.phase = .capturing ∧ s.pos.toNat + 1 = s.explen.toNat ∧ 6 ≤ s.pos.toNat
    let passes := crc16 ((List.range s.pos.toNat).map (byteAt s) ++ [b]) = 0#16
    let aborts := s.phase = .capturing ∧ s.pos.toNat = 2 ∧ (70 < b.toNat ∨ b.toNat < 7)
    let filtered := s.phase = .capturing ∧ s.pos.toNat = 4 ∧ b ≠ 0x31#8
    ∃ (t : State) (e : Event), exec (.rxb b) s = .next t ∧ t.events = s.events ++ [e] ∧ e ≠ .linkUnhealthy ∧
      (e = .start ↔ s.phase = .idle ∧ b = 0x3E#8) ∧ (e = .junk ↔ s.phase = .idle ∧ b ≠ 0x3E#8) ∧
      (e = .lenAbort ↔ aborts) ∧ (e = .typeFilter ↔ filtered) ∧
      (e = .frameOk ↔ ends ∧ passes) ∧ (e = .crcFail ↔ ends ∧ ¬passes) ∧
      (e = .store ↔ s.phase = .capturing ∧ ¬aborts ∧ ¬filtered ∧ ¬ends)

/-- The frame of RXB (R20, R24, R103): the output and input ports, the draw and every byte but the one stored stay as they were;
a start marker in IDLE stores at index 0, a captured byte at `S.pos`, any other byte nowhere. -/
def Obligations.ReceivedByteFrame : Prop :=
  ∀ (b : Byte) (s t : State), exec (.rxb b) s = .next t →
    SamePorts s t ∧ t.draws = s.draws ∧
    ∀ k : Nat, (s.phase = .idle → b = 0x3E#8 → k ≠ 0) → (s.phase = .capturing → k ≠ s.pos.toNat) →
      byteAt t k = byteAt s k

/-- R112 (decision D11) with R26: what each operation does to the junk counter, by the event it emits. -/
def Obligations.JunkCounterCountsOnlyDiscardedBytes : Prop :=
  ∀ (i : Instr) (s t : State), exec i s = .next t →
    match i with
    | .rxb _ =>
      (t.events = s.events ++ [.junk] → t.junk = s.junk + 1#32) ∧
      (t.events = s.events ++ [.crcFail] → t.junk = s.junk + BitVec.ofNat 32 t.explen.toNat) ∧
      (t.events ≠ s.events ++ [.junk] → t.events ≠ s.events ++ [.crcFail] → t.junk = s.junk)
    | .poll => t.junk = if s.baudValid = false ∧ 1000 < s.junk.toNat then 0#32 else s.junk
    | .rdch _ => t.junk = s.junk
    | .init => t.junk = 0#32

/-! ## Sequences of bytes -/

/-- T3 of spec/95_test_vectors.md: bytes other than the start marker that arrive in IDLE are counted, each once, and change
nothing else. -/
def Obligations.JunkBytesAreCountedEachOnce : Prop :=
  ∀ (bytes : List Byte) (s : State), s.phase = .idle → (∀ b ∈ bytes, b ≠ 0x3E#8) →
    ∃ t : State, feed bytes s = .next t ∧ t.phase = .idle ∧ t.junk = s.junk + BitVec.ofNat 32 bytes.length ∧
      SameBytes s t ∧ t.pos = s.pos ∧ t.explen = s.explen ∧ t.ready = s.ready ∧ t.baudValid = s.baudValid ∧
      SamePorts s t ∧ t.draws = s.draws

/-- A whole frame fed from IDLE (T1, T2; R106, R107, R115, R117): it completes at its last byte, the buffer holds exactly its
bytes below its length and what stood there before at and above it, and its CRC alone decides between a ready frame and a charge
of its length. Bytes 1, 3 and 5 and the payload are any bytes (R69). -/
def Obligations.WholeFrameFedFromIdle : Prop :=
  ∀ (f : List Byte) (s : State), frameShape f → s.phase = .idle →
    ∃ t : State, feed f s = .next t ∧ t.phase = .idle ∧ t.pos.toNat = f.length ∧ t.explen.toNat = f.length ∧
      (∀ (k : Nat) (h : k < f.length), byteAt t k = f[k]) ∧ (∀ k : Nat, f.length ≤ k → byteAt t k = byteAt s k) ∧
      (crc16 f = 0#16 → t.ready = true ∧ t.baudValid = true ∧ t.junk = s.junk) ∧
      (crc16 f ≠ 0#16 → t.ready = false ∧ t.baudValid = s.baudValid ∧ t.junk = s.junk + BitVec.ofNat 32 f.length) ∧
      SamePorts s t ∧ t.draws = s.draws

/-- The first in-range read after a valid frame fed from IDLE returns that channel, whatever the channel and whatever came
before the frame; a byte at or above the frame's length is the one an earlier candidate, or the draw, left there (R164, R165,
R167, R168; decisions D8, D12). -/
def Obligations.FirstReadReturnsTheFramesChannel : Prop :=
  ∀ (f : List Byte) (s : State) (index : Byte), frameShape f → crc16 f = 0#16 → s.phase = .idle → index.toNat < 16 →
    let byteOf := fun k : Nat => f[k]?.getD (byteAt s k)
    let raw := (byteOf (6 + 2 * index.toNat)).toNat + 256 * (byteOf (7 + 2 * index.toNat)).toNat
    ∃ t u : State, feed f s = .next t ∧ exec (.rdch index) t = .next u ∧
      u.hostRvalid = true ∧ u.hostResult.toNat = (raw + 4) / 8 ∧ u.ready = false

/-- A frame of another type (R105, R114, derived by the spec; conflict C3): from IDLE its first five bytes are captured and not
counted, and each of the others, none of them a start marker, is counted. -/
def Obligations.FilteredFrameIsCountedFromOffsetFive : Prop :=
  ∀ (f : List Byte) (s : State), s.phase = .idle → 7 ≤ f.length → f.length ≤ 70 → f[0]? = some 0x3E#8 →
    f[2]?.map BitVec.toNat = some f.length → f[4]? ≠ some 0x31#8 → (∀ b ∈ f.drop 5, b ≠ 0x3E#8) →
      ∃ t : State, feed f s = .next t ∧ t.phase = .idle ∧ t.pos = 4#7 ∧ t.explen.toNat = f.length ∧ t.ready = false ∧
        t.baudValid = s.baudValid ∧ t.junk = s.junk + BitVec.ofNat 32 (f.length - 5) ∧ SamePorts s t

/-- T5 with R104 and R109 (decisions D6, D7, D19): after a candidate with a bad length byte the junk counter is as before, no
byte past index 2 has changed, and a valid frame that follows at once is received. -/
def Obligations.FrameAfterABadLengthIsReceived : Prop :=
  ∀ (x n : Byte) (f : List Byte) (s : State), s.phase = .idle → 70 < n.toNat ∨ n.toNat < 7 → frameShape f →
    crc16 f = 0#16 →
      ∃ t u : State, feed [0x3E#8, x, n] s = .next t ∧ t.phase = .idle ∧ t.pos = 2#7 ∧ t.junk = s.junk ∧
        t.ready = false ∧ (∀ k : Nat, 2 < k → byteAt t k = byteAt s k) ∧
        feed f t = .next u ∧ u.ready = true ∧ u.junk = s.junk

/-! ## CRC -/

/-- R142: the byte form and the bit-serial form of the update are the same function (general knowledge in the spec; D10). -/
def Obligations.CrcFormsAgree : Prop :=
  ∀ (c : CrcReg) (b : Byte), crcUpdateByteForm c b = crcUpdate c b

/-- R145 and R43 (decision D10): a low-byte-first trailer brings the residue of any byte sequence to zero, and so it does from
any other initial value (R143). -/
def Obligations.TrailerBringsResidueToZero : Prop :=
  (∀ m : List Byte, crc16 (m ++ trailer m) = 0#16) ∧
  ∀ (c : CrcReg) (m : List Byte),
    crcFrom c (m ++ [(crcFrom c m).extractLsb' 0 8, (crcFrom c m).extractLsb' 8 8]) = 0#16

/-- R147, derived by the spec: flipping any one bit of a sequence with residue zero gives a residue that is not zero; so a valid
frame with one bit flipped at any offset but 0, 2 and 4 leaves `S.ready` at 0 and charges its length. -/
def Obligations.SingleBitErrorIsDetected : Prop :=
  ∀ (f : List Byte) (j i : Nat), crc16 f = 0#16 → j < f.length → i < 8 →
    let flipped := f.modify j (fun b => b ^^^ (1#8 <<< i))
    crc16 flipped ≠ 0#16 ∧
    (frameShape f → j ≠ 0 → j ≠ 2 → j ≠ 4 → ∀ s : State, s.phase = .idle →
      ∃ t : State, feed flipped s = .next t ∧ t.ready = false ∧ t.junk = s.junk + BitVec.ofNat 32 f.length)

/-! ## RDCH -/

/-- R161 (decision D9): an index of 16 to 255 returns 0 and changes nothing; a ready frame is not consumed. -/
def Obligations.OutOfRangeReadReturnsZero : Prop :=
  ∀ (index : Byte) (s : State), 16 ≤ index.toNat →
    exec (.rdch index) s = .next { s with hostRvalid := true, hostResult := 0#16 }

/-- R162: with no frame ready an in-range read returns 0 and changes nothing. -/
def Obligations.ReadWithNoFrameReturnsZero : Prop :=
  ∀ (index : Byte) (s : State), index.toNat < 16 → s.ready = false →
    exec (.rdch index) s = .next { s with hostRvalid := true, hostResult := 0#16 }

/-- R163 and R165 (decisions D8, D12): an in-range read of a ready frame clears `S.ready`, whatever the index, and returns
`(raw + 4) / 8` with no wrap at 16 bits; nothing else changes. -/
def Obligations.ConsumingReadReturnsTheChannel : Prop :=
  ∀ (index : Byte) (s : State), index.toNat < 16 → s.ready = true →
    let raw := (byteAt s (6 + 2 * index.toNat)).toNat + 256 * (byteAt s (7 + 2 * index.toNat)).toNat
    exec (.rdch index) s =
      .next { s with ready := false, hostRvalid := true, hostResult := BitVec.ofNat 16 ((raw + 4) / 8) }

/-- R164: channel `i` is the two bytes at `6 + 2i` (low) and `7 + 2i` (high), and the indices read are 6 to 37; the result depends
on these two bytes alone, whatever the frame's length and whatever else differs. -/
def Obligations.ChannelIsTwoBytesLittleEndian : Prop :=
  ∀ (index : Byte) (s t : State), index.toNat < 16 → s.ready = true → exec (.rdch index) s = .next t →
    let lo := 6 + 2 * index.toNat
    let hi := 7 + 2 * index.toNat
    6 ≤ lo ∧ hi ≤ 37 ∧ lo = channelOffset (channelIndex index) ∧
    memRead s lo 2 = some (byteAt s hi ++ byteAt s lo).toNat ∧
    ∀ s' t' : State, s'.ready = true → byteAt s' lo = byteAt s lo → byteAt s' hi = byteAt s hi →
      exec (.rdch index) s' = .next t' → t'.hostResult = t.hostResult

/-- R166, derived by the spec: a read returns 0 to 8192, and a consuming read returns `k` exactly when
`8k - 4 ≤ raw ≤ 8k + 3`. -/
def Obligations.ReadResultRange : Prop :=
  ∀ (index : Byte) (s t : State), exec (.rdch index) s = .next t →
    t.hostResult.toNat ≤ 8192 ∧
    (index.toNat < 16 → s.ready = true → ∀ k : Nat,
      let raw := (byteAt s (6 + 2 * index.toNat)).toNat + 256 * (byteAt s (7 + 2 * index.toNat)).toNat
      (t.hostResult.toNat = k ↔ 8 * k ≤ raw + 4 ∧ raw ≤ 8 * k + 3))

/-- R168 and R224, derived by the spec from R163 (decision D8): after an in-range read, whatever HOST operations follow and
whatever index is read, every read returns 0 as long as no byte arrives. -/
def Obligations.OneChannelPerFrame : Prop :=
  ∀ (i j : Byte) (ops : List Instr) (s t : State), i.toNat < 16 → exec (.rdch i) s = .next t →
    (∀ o ∈ ops, o.agent = .host) →
      ∃ u v : State, runOps ops t = .next u ∧ exec (.rdch j) u = .next v ∧ v.hostResult = 0#16

/-! ## POLL and INIT -/

/-- R190 with R180 and R183 where the check fires (decisions D3, D16): the retry bit is 1, the ready bit is `S.ready`, the junk
counter returns to 0, and nothing else changes. -/
def Obligations.PollFiresAndResetsTheJunkCounter : Prop :=
  ∀ s : State, s.baudValid = false → 1000 < s.junk.toNat →
    exec .poll s = .next { s with
      junk := 0#32, hostRvalid := true, hostResult := if s.ready then 3#16 else 2#16, events := s.events ++ [.linkUnhealthy] }

/-- R190 with R180 where the check does not fire (decisions D3, D16): the retry bit is 0, and only the result changes. -/
def Obligations.PollReportsReady : Prop :=
  ∀ s : State, s.baudValid = true ∨ s.junk.toNat ≤ 1000 →
    exec .poll s = .next { s with hostRvalid := true, hostResult := if s.ready then 1#16 else 0#16 }

/-- R181: the check fires at 1001 and not at 1000; from IDLE with Baud-Valid false and no junk counted, 1001 junk bytes give one
retry and a counter at 0, and 999 more give none. -/
def Obligations.HealthThresholdIsStrict : Prop :=
  (∀ (s t : State), exec .poll s = .next t → s.baudValid = false →
    (s.junk = 1000#32 → t.hostResult.getLsbD 1 = false ∧ t.junk = 1000#32) ∧
    (s.junk = 1001#32 → t.hostResult.getLsbD 1 = true ∧ t.junk = 0#32) ∧
    (t.hostResult.getLsbD 1 = true ↔ 1000 < s.junk.toNat)) ∧
  ∀ (first second : List Byte) (s : State), s.phase = .idle → s.baudValid = false → s.junk = 0#32 →
    first.length = 1001 → second.length = 999 → (∀ b ∈ first, b ≠ 0x3E#8) → (∀ b ∈ second, b ≠ 0x3E#8) →
      ∃ t u v w : State, feed first s = .next t ∧ exec .poll t = .next u ∧ u.hostResult.getLsbD 1 = true ∧ u.junk = 0#32 ∧
        feed second u = .next v ∧ exec .poll v = .next w ∧ w.hostResult.getLsbD 1 = false

/-- R182: a frame that passes its CRC leaves `S.baud_valid` at 1; it stays 1 through every operation but INIT, and no POLL
fires, whatever the junk count. -/
def Obligations.BaudValidIsStickyAndGatesTheCheck : Prop :=
  (∀ (i : Instr) (s t : State), exec i s = .next t → t.events = s.events ++ [.frameOk] → t.baudValid = true) ∧
  ∀ (ops : List Instr) (s t : State), s.baudValid = true → Instr.init ∉ ops → runOps ops s = .next t →
    t.baudValid = true ∧
    ∃ u : State, exec .poll t = .next u ∧ u.hostResult.getLsbD 1 = false ∧ u.junk = t.junk ∧ u.baudValid = true

/-- R184, derived by the spec: one POLL fires at most once whatever the count, so a POLL right after a POLL never fires; and
every POLL with Baud-Valid false leaves the count at 1000 or less (R229). -/
def Obligations.SecondPollNeverFires : Prop :=
  ∀ s t u : State, exec .poll s = .next t → exec .poll t = .next u →
    u.hostResult.getLsbD 1 = false ∧ (s.baudValid = false → t.junk.toNat ≤ 1000)

/-- The note of spec/95_test_vectors.md section 2.4, derived by the spec: POLL never answers 0x0003, because a ready frame
implies Baud-Valid; its other bits are 0 (R65). -/
def Obligations.PollNeverAnswersThree : Prop :=
  ∀ s t : State, Inv s → exec .poll s = .next t → t.hostResult.toNat < 3

/-- R191 (decision D15): INIT leaves every field of `S` at its reset value, the buffer a fresh draw, pulses `transport_open` and
returns the sampled `transport_open_ok`. -/
def Obligations.InitReinitialisesAndOpens : Prop :=
  ∀ s : State, exec .init s = .next { State.reset with
    draws := s.draws + 1, input := s.input, transportOpenOk := s.transportOpenOk, events := s.events,
    hostRvalid := true, hostResult := if s.transportOpenOk then 1#16 else 0#16, transportOpen := true }

/-- R30 and R183 with the frames of POLL and RDCH: neither changes the assembler's fields, a byte of the buffer or Baud-Valid;
POLL leaves `S.ready`, RDCH leaves the junk counter. -/
def Obligations.HostReadsLeaveTheAssemblerAlone : Prop :=
  ∀ (i : Instr) (s t : State), i = .poll ∨ (∃ index : Byte, i = .rdch index) → exec i s = .next t →
    t.phase = s.phase ∧ t.pos = s.pos ∧ t.explen = s.explen ∧ SameBytes s t ∧ t.baudValid = s.baudValid ∧
    t.transportOpen = s.transportOpen ∧ t.transportOpenOk = s.transportOpenOk ∧ t.input = s.input ∧ t.draws = s.draws ∧
    t.hostRvalid = true ∧ (i = .poll → t.ready = s.ready) ∧ (i ≠ .poll → t.junk = s.junk ∧ t.events = s.events)

/-! ## The whole machine -/

/-- The invariant of R29 holds at reset. -/
def Obligations.InvariantHoldsAtReset : Prop := Inv State.reset

/-- R29, derived by the spec: every step keeps the invariant, from every state that meets it. -/
def Obligations.EveryStepKeepsTheInvariant : Prop :=
  ∀ s t : State, Inv s → step s = .next t → Inv t

/-- R200 (decision D17): no operation stops the block in a state that meets the invariant; while the HOST keeps its duty no step
does, and each leaves the invariant and the duty to come in place, so that none does for any number of cycles and any
interleaving of the two agents and of resets. That the duty leaves a reserved word beside `rst` free is the model's deduction
(DEDUCED, notes/assumptions/7.md). -/
def Obligations.NothingStopsTheBlock : Prop :=
  (∀ (i : Instr) (s : State), Inv s → ∃ t : State, exec i s = .next t) ∧
  (∀ s : State, Inv s → hostDuties s.input = true →
    ∃ t : State, step s = .next t ∧ Inv t ∧ hostDuties t.input = true) ∧
  ∀ (n : Nat) (s : State), Inv s → hostDuties s.input = true → safeFor n s

/-- R25 (decision D5): only a completion whose CRC passes sets `S.ready`. -/
def Obligations.OnlyAPassingCompletionSetsReady : Prop :=
  ∀ (i : Instr) (s t : State), Inv s → exec i s = .next t → s.ready = false → t.ready = true →
    ∃ b : Byte, i = .rxb b ∧ s.phase = .capturing ∧ s.pos.toNat + 1 = s.explen.toNat ∧
      crc16 ((List.range s.pos.toNat).map (byteAt s) ++ [b]) = 0#16 ∧ t.events = s.events ++ [.frameOk]

/-- R51 and R52, derived by the spec: a frame that is ready after a cycle either completed in that cycle or was ready before it
with the same length and the same 70 bytes, so no read sees a buffer overwritten in part. -/
def Obligations.ReadyFrameIsNeverTorn : Prop :=
  ∀ s t : State, Inv s → step s = .next t → t.ready = true →
    Event.frameOk ∈ t.events ∨ (s.ready = true ∧ t.explen = s.explen ∧ SameBytes s t)

/-- R113 (decision D18) with R22 and R23: `S.pos` and `S.explen` are not read in IDLE: two states that differ at most in them, in
IDLE, take the same steps to states that again differ at most in them. -/
def Obligations.IdlePositionIsUnobservable : Prop :=
  ∀ s t s' : State, SameButIdleHidden s t → step s = .next s' →
    ∃ t' : State, step t = .next t' ∧ SameButIdleHidden s' t'

/-- R30 (decision D3): what a HOST operation answers depends on `S.ready`, the health check, the sampled `transport_open_ok` and,
only while `S.ready = 1`, the bytes at 6 to 37; and POLL and RDCH leave two states that agree on these in agreement. -/
def Obligations.HostSeesOnlyFlagsHealthAndChannelBytes : Prop :=
  ∀ (i : Instr) (s t s' t' : State), i.agent = .host → SameToHost s t → exec i s = .next s' → exec i t = .next t' →
    s'.hostResult = t'.hostResult ∧ (i ≠ .init → SameToHost s' t')

/-- R24 with I7 of spec/93_implementation_defined.md (decision D14): the draw changes nothing a byte does, and shows in a read of
a ready frame only where the channel reaches past the frame's length. -/
def Obligations.DrawShowsOnlyPastTheFrame : Prop :=
  ∀ (s : State) (d : Nat), Inv s →
    (∀ (b : Byte) (t : State), exec (.rxb b) s = .next t → exec (.rxb b) { s with draws := d } = .next { t with draws := d }) ∧
    (∀ (index : Byte) (t : State), s.ready = true → index.toNat < 16 → 7 + 2 * index.toNat < s.explen.toNat →
      exec (.rdch index) s = .next t → exec (.rdch index) { s with draws := d } = .next { t with draws := d })

/-- The corner case of R191 (decision D15) with R194: after an INIT that the transport did not answer, while the RX agent keeps
its duty and neither a reset nor an INIT that opens comes, `S.ready` stays 0 and a read returns 0. -/
def Obligations.UnopenedTransportLeavesNothingToRead : Prop :=
  ∀ (n : Nat) (s t : State), s.ready = false → rxDuty true s.input = true →
    (∀ c ∈ s.input, c.rst = false ∧ initOpens c = false) → Sys2Proof.core.run n s = .next t →
      t.ready = false ∧ ∀ index : Byte, ∃ u : State, exec (.rdch index) t = .next u ∧ u.hostResult = 0#16
end

