-- ==== Sys2Proof/Laws/Constants.lean ====
section
/-! SUPPORT. The value of each named constant, for the simplifier. -/

namespace Sys2Proof

@[simp] theorem Config.startMarker_eq : Config.startMarker = 0x3E#8 := rfl
@[simp] theorem Config.typeRc_eq : Config.typeRc = 0x31#8 := rfl
@[simp] theorem Config.lenPos_eq : Config.lenPos = 2 := rfl
@[simp] theorem Config.typePos_eq : Config.typePos = 4 := rfl
@[simp] theorem Config.minLen_eq : Config.minLen = 7 := rfl
@[simp] theorem Config.maxLen_eq : Config.maxLen = 70 := rfl
@[simp] theorem Config.numCh_eq : Config.numCh = 16 := rfl
@[simp] theorem Config.chOffset_eq : Config.chOffset = 6 := rfl
@[simp] theorem Config.chBytes_eq : Config.chBytes = 2 := rfl
@[simp] theorem Config.ticksPerUs_eq : Config.ticksPerUs = 8 := rfl
@[simp] theorem Config.roundAdd_eq : Config.roundAdd = 4 := rfl
@[simp] theorem Config.junkThreshold_eq : Config.junkThreshold = 1000 := rfl
@[simp] theorem Config.defaultValue_eq : Config.defaultValue = 0#16 := rfl
@[simp] theorem Config.lengthAbortChargesJunk_eq : Config.lengthAbortChargesJunk = false := rfl
@[simp] theorem Config.oorReadConsumes_eq : Config.oorReadConsumes = false := rfl

end Sys2Proof
end

