-- ==== Sys2Proof/Laws/State.lean ====
section
/-! SUPPORT. What each update of the state leaves in each field, all by rfl. -/

namespace Sys2Proof.Machine

@[simp] theorem emit_phase (e : Event) (s : State) : (emit e s).phase = s.phase := rfl
@[simp] theorem emit_pos (e : Event) (s : State) : (emit e s).pos = s.pos := rfl
@[simp] theorem emit_explen (e : Event) (s : State) : (emit e s).explen = s.explen := rfl
@[simp] theorem emit_buf (e : Event) (s : State) : (emit e s).buf = s.buf := rfl
@[simp] theorem emit_ready (e : Event) (s : State) : (emit e s).ready = s.ready := rfl
@[simp] theorem emit_junk (e : Event) (s : State) : (emit e s).junk = s.junk := rfl
@[simp] theorem emit_baudValid (e : Event) (s : State) : (emit e s).baudValid = s.baudValid := rfl
@[simp] theorem emit_hostRvalid (e : Event) (s : State) : (emit e s).hostRvalid = s.hostRvalid := rfl
@[simp] theorem emit_hostResult (e : Event) (s : State) : (emit e s).hostResult = s.hostResult := rfl
@[simp] theorem emit_transportOpen (e : Event) (s : State) : (emit e s).transportOpen = s.transportOpen := rfl
@[simp] theorem emit_transportOpenOk (e : Event) (s : State) : (emit e s).transportOpenOk = s.transportOpenOk := rfl
@[simp] theorem emit_events (e : Event) (s : State) : (emit e s).events = s.events ++ [e] := rfl
@[simp] theorem emit_draws (e : Event) (s : State) : (emit e s).draws = s.draws := rfl
@[simp] theorem emit_input (e : Event) (s : State) : (emit e s).input = s.input := rfl

@[simp] theorem addJunk_phase (n : Nat) (s : State) : (addJunk n s).phase = s.phase := rfl
@[simp] theorem addJunk_pos (n : Nat) (s : State) : (addJunk n s).pos = s.pos := rfl
@[simp] theorem addJunk_explen (n : Nat) (s : State) : (addJunk n s).explen = s.explen := rfl
@[simp] theorem addJunk_buf (n : Nat) (s : State) : (addJunk n s).buf = s.buf := rfl
@[simp] theorem addJunk_ready (n : Nat) (s : State) : (addJunk n s).ready = s.ready := rfl
@[simp] theorem addJunk_junk (n : Nat) (s : State) : (addJunk n s).junk = s.junk + BitVec.ofNat Config.junkWidth n := rfl
@[simp] theorem addJunk_baudValid (n : Nat) (s : State) : (addJunk n s).baudValid = s.baudValid := rfl
@[simp] theorem addJunk_hostRvalid (n : Nat) (s : State) : (addJunk n s).hostRvalid = s.hostRvalid := rfl
@[simp] theorem addJunk_hostResult (n : Nat) (s : State) : (addJunk n s).hostResult = s.hostResult := rfl
@[simp] theorem addJunk_transportOpen (n : Nat) (s : State) : (addJunk n s).transportOpen = s.transportOpen := rfl
@[simp] theorem addJunk_transportOpenOk (n : Nat) (s : State) : (addJunk n s).transportOpenOk = s.transportOpenOk := rfl
@[simp] theorem addJunk_events (n : Nat) (s : State) : (addJunk n s).events = s.events := rfl
@[simp] theorem addJunk_draws (n : Nat) (s : State) : (addJunk n s).draws = s.draws := rfl
@[simp] theorem addJunk_input (n : Nat) (s : State) : (addJunk n s).input = s.input := rfl

@[simp] theorem answer_phase (v : OpWord) (s : State) : (answer v s).phase = s.phase := rfl
@[simp] theorem answer_pos (v : OpWord) (s : State) : (answer v s).pos = s.pos := rfl
@[simp] theorem answer_explen (v : OpWord) (s : State) : (answer v s).explen = s.explen := rfl
@[simp] theorem answer_buf (v : OpWord) (s : State) : (answer v s).buf = s.buf := rfl
@[simp] theorem answer_ready (v : OpWord) (s : State) : (answer v s).ready = s.ready := rfl
@[simp] theorem answer_junk (v : OpWord) (s : State) : (answer v s).junk = s.junk := rfl
@[simp] theorem answer_baudValid (v : OpWord) (s : State) : (answer v s).baudValid = s.baudValid := rfl
@[simp] theorem answer_hostRvalid (v : OpWord) (s : State) : (answer v s).hostRvalid = true := rfl
@[simp] theorem answer_hostResult (v : OpWord) (s : State) : (answer v s).hostResult = v := rfl
@[simp] theorem answer_transportOpen (v : OpWord) (s : State) : (answer v s).transportOpen = s.transportOpen := rfl
@[simp] theorem answer_transportOpenOk (v : OpWord) (s : State) : (answer v s).transportOpenOk = s.transportOpenOk := rfl
@[simp] theorem answer_events (v : OpWord) (s : State) : (answer v s).events = s.events := rfl
@[simp] theorem answer_draws (v : OpWord) (s : State) : (answer v s).draws = s.draws := rfl
@[simp] theorem answer_input (v : OpWord) (s : State) : (answer v s).input = s.input := rfl

@[simp] theorem clearReady_phase (s : State) : (clearReady s).phase = s.phase := rfl
@[simp] theorem clearReady_pos (s : State) : (clearReady s).pos = s.pos := rfl
@[simp] theorem clearReady_explen (s : State) : (clearReady s).explen = s.explen := rfl
@[simp] theorem clearReady_buf (s : State) : (clearReady s).buf = s.buf := rfl
@[simp] theorem clearReady_ready (s : State) : (clearReady s).ready = false := rfl
@[simp] theorem clearReady_junk (s : State) : (clearReady s).junk = s.junk := rfl
@[simp] theorem clearReady_baudValid (s : State) : (clearReady s).baudValid = s.baudValid := rfl
@[simp] theorem clearReady_hostRvalid (s : State) : (clearReady s).hostRvalid = s.hostRvalid := rfl
@[simp] theorem clearReady_hostResult (s : State) : (clearReady s).hostResult = s.hostResult := rfl
@[simp] theorem clearReady_transportOpen (s : State) : (clearReady s).transportOpen = s.transportOpen := rfl
@[simp] theorem clearReady_transportOpenOk (s : State) : (clearReady s).transportOpenOk = s.transportOpenOk := rfl
@[simp] theorem clearReady_events (s : State) : (clearReady s).events = s.events := rfl
@[simp] theorem clearReady_draws (s : State) : (clearReady s).draws = s.draws := rfl
@[simp] theorem clearReady_input (s : State) : (clearReady s).input = s.input := rfl

@[simp] theorem markValid_phase (s : State) : (markValid s).phase = s.phase := rfl
@[simp] theorem markValid_pos (s : State) : (markValid s).pos = s.pos := rfl
@[simp] theorem markValid_explen (s : State) : (markValid s).explen = s.explen := rfl
@[simp] theorem markValid_buf (s : State) : (markValid s).buf = s.buf := rfl
@[simp] theorem markValid_ready (s : State) : (markValid s).ready = true := rfl
@[simp] theorem markValid_junk (s : State) : (markValid s).junk = s.junk := rfl
@[simp] theorem markValid_baudValid (s : State) : (markValid s).baudValid = true := rfl
@[simp] theorem markValid_hostRvalid (s : State) : (markValid s).hostRvalid = s.hostRvalid := rfl
@[simp] theorem markValid_hostResult (s : State) : (markValid s).hostResult = s.hostResult := rfl
@[simp] theorem markValid_transportOpen (s : State) : (markValid s).transportOpen = s.transportOpen := rfl
@[simp] theorem markValid_transportOpenOk (s : State) : (markValid s).transportOpenOk = s.transportOpenOk := rfl
@[simp] theorem markValid_events (s : State) : (markValid s).events = s.events := rfl
@[simp] theorem markValid_draws (s : State) : (markValid s).draws = s.draws := rfl
@[simp] theorem markValid_input (s : State) : (markValid s).input = s.input := rfl

@[simp] theorem initialise_phase (s : State) : (initialise s).phase = .idle := rfl
@[simp] theorem initialise_pos (s : State) : (initialise s).pos = 0#7 := rfl
@[simp] theorem initialise_explen (s : State) : (initialise s).explen = BitVec.ofNat 7 Config.minLen := rfl
@[simp] theorem initialise_buf (s : State) : (initialise s).buf = [] := rfl
@[simp] theorem initialise_ready (s : State) : (initialise s).ready = false := rfl
@[simp] theorem initialise_junk (s : State) : (initialise s).junk = 0#Config.junkWidth := rfl
@[simp] theorem initialise_baudValid (s : State) : (initialise s).baudValid = false := rfl
@[simp] theorem initialise_hostRvalid (s : State) : (initialise s).hostRvalid = s.hostRvalid := rfl
@[simp] theorem initialise_hostResult (s : State) : (initialise s).hostResult = s.hostResult := rfl
@[simp] theorem initialise_transportOpen (s : State) : (initialise s).transportOpen = s.transportOpen := rfl
@[simp] theorem initialise_transportOpenOk (s : State) : (initialise s).transportOpenOk = s.transportOpenOk := rfl
@[simp] theorem initialise_events (s : State) : (initialise s).events = s.events := rfl
@[simp] theorem initialise_draws (s : State) : (initialise s).draws = s.draws + 1 := rfl
@[simp] theorem initialise_input (s : State) : (initialise s).input = s.input := rfl

@[simp] theorem beginCycle_phase (s : State) : (beginCycle s).phase = s.phase := rfl
@[simp] theorem beginCycle_pos (s : State) : (beginCycle s).pos = s.pos := rfl
@[simp] theorem beginCycle_explen (s : State) : (beginCycle s).explen = s.explen := rfl
@[simp] theorem beginCycle_buf (s : State) : (beginCycle s).buf = s.buf := rfl
@[simp] theorem beginCycle_ready (s : State) : (beginCycle s).ready = s.ready := rfl
@[simp] theorem beginCycle_junk (s : State) : (beginCycle s).junk = s.junk := rfl
@[simp] theorem beginCycle_baudValid (s : State) : (beginCycle s).baudValid = s.baudValid := rfl
@[simp] theorem beginCycle_hostRvalid (s : State) : (beginCycle s).hostRvalid = false := rfl
@[simp] theorem beginCycle_hostResult (s : State) : (beginCycle s).hostResult = 0#16 := rfl
@[simp] theorem beginCycle_transportOpen (s : State) : (beginCycle s).transportOpen = false := rfl
@[simp] theorem beginCycle_transportOpenOk (s : State) : (beginCycle s).transportOpenOk = (nextCycle s).transportOpenOk := rfl
@[simp] theorem beginCycle_events (s : State) : (beginCycle s).events = [] := rfl
@[simp] theorem beginCycle_draws (s : State) : (beginCycle s).draws = s.draws := rfl
@[simp] theorem beginCycle_input (s : State) : (beginCycle s).input = s.input.tail := rfl

end Sys2Proof.Machine
end

