-- ==== Sys2Proof/Laws/Memory.lean ====
section
/-! SUPPORT. The laws of the frame buffer: read after write, canonical form kept, and what the reads and the write of R9 do. -/

namespace Sys2Proof.Machine

theorem Memory.read_write_same (m : Memory) (k : Nat) (v : Byte) : (m.write k v).read k = some v := by
  induction m with
  | nil => simp [Memory.write, Memory.read]
  | cons c m ih =>
    obtain ⟨a, b⟩ := c
    simp only [Memory.write]
    split
    · simp [Memory.read]
    · split
      · simp [Memory.read]
      · simpa [Memory.read, Ne.symm ‹¬k = a›] using ih

theorem Memory.read_write_ne (m : Memory) {k j : Nat} (v : Byte) (h : j ≠ k) : (m.write k v).read j = m.read j := by
  induction m with
  | nil => simp [Memory.write, Memory.read, Ne.symm h]
  | cons c m ih =>
    obtain ⟨a, b⟩ := c
    simp only [Memory.write]
    split
    · simp [Memory.read, Ne.symm h]
    · split
      · subst_vars; simp [Memory.read, Ne.symm h]
      · simp only [Memory.read, ih]

theorem Memory.risesFrom_write (m : Memory) (lo k : Nat) (v : Byte) (hm : m.risesFrom lo = true) (hlo : lo ≤ k)
    (hk : k < Config.maxLen) : (m.write k v).risesFrom lo = true := by
  induction m generalizing lo with
  | nil => simp only [Memory.write, Memory.risesFrom, Bool.and_eq_true, decide_eq_true_eq]; exact ⟨⟨hlo, hk⟩, trivial⟩
  | cons c m ih =>
    obtain ⟨a, b⟩ := c
    simp only [Memory.risesFrom, Bool.and_eq_true, decide_eq_true_eq] at hm
    obtain ⟨⟨hla, ha⟩, hrest⟩ := hm
    simp only [Memory.write]
    split
    · simp only [Memory.risesFrom, Bool.and_eq_true, decide_eq_true_eq]; exact ⟨⟨hlo, hk⟩, ⟨by omega, ha⟩, hrest⟩
    · split
      · subst_vars; simp only [Memory.risesFrom, Bool.and_eq_true, decide_eq_true_eq]; exact ⟨⟨hlo, hk⟩, hrest⟩
      · simp only [Memory.risesFrom, Bool.and_eq_true, decide_eq_true_eq]
        exact ⟨⟨hla, ha⟩, ih (a + 1) hrest (by omega)⟩

/-- Every store keeps the canonical form. -/
theorem Memory.wf_write (m : Memory) (k : Nat) (v : Byte) (hm : m.wf = true) (hk : k < Config.maxLen) :
    (m.write k v).wf = true := Memory.risesFrom_write m 0 k v hm (Nat.zero_le _) hk

theorem Memory.read_below (m : Memory) {lo k : Nat} (hm : m.risesFrom lo = true) (hk : k < lo) : m.read k = none := by
  induction m generalizing lo with
  | nil => rfl
  | cons c m ih =>
    obtain ⟨a, b⟩ := c
    simp only [Memory.risesFrom, Bool.and_eq_true, decide_eq_true_eq] at hm
    simp only [Memory.read, show a ≠ k by omega, if_false]
    exact ih hm.2 (by omega)

/-- Nothing is stored outside the buffer. -/
theorem Memory.read_outside (m : Memory) {lo k : Nat} (hm : m.risesFrom lo = true) (hk : Config.maxLen ≤ k) :
    m.read k = none := by
  induction m generalizing lo with
  | nil => rfl
  | cons c m ih =>
    obtain ⟨a, b⟩ := c
    simp only [Memory.risesFrom, Bool.and_eq_true, decide_eq_true_eq] at hm
    simp only [Memory.read, show a ≠ k by omega, if_false]
    exact ih hm.2

/-- In canonical form, memories that list the same bytes are the same data. -/
theorem Memory.ext_of_read {m n : Memory} {lo : Nat} (hm : m.risesFrom lo = true) (hn : n.risesFrom lo = true)
    (h : ∀ k, m.read k = n.read k) : m = n := by
  induction m generalizing n lo with
  | nil =>
    cases n with
    | nil => rfl
    | cons d n => obtain ⟨a, b⟩ := d; simpa [Memory.read] using h a
  | cons c m ih =>
    obtain ⟨a, b⟩ := c
    cases n with
    | nil => simpa [Memory.read] using h a
    | cons d n =>
      obtain ⟨a', b'⟩ := d
      simp only [Memory.risesFrom, Bool.and_eq_true, decide_eq_true_eq] at hm hn
      have haa : a = a' := by
        rcases Nat.lt_trichotomy a a' with hlt | heq | hgt
        · have := h a
          simp [Memory.read, show a' ≠ a by omega, Memory.read_below n hn.2 (show a < a' + 1 by omega)] at this
        · exact heq
        · have := h a'
          simp [Memory.read, show a ≠ a' by omega, Memory.read_below m hm.2 (show a' < a + 1 by omega)] at this
      subst haa
      have hb : b = b' := by simpa [Memory.read] using h a
      subst hb
      have := ih hm.2 hn.2 fun k => by
        by_cases hk : a = k
        · subst hk
          rw [Memory.read_below m hm.2 (Nat.lt_succ_self a), Memory.read_below n hn.2 (Nat.lt_succ_self a)]
        · simpa [Memory.read, hk] using h k
      rw [this]

/-- A byte reads the same from two states with the same stored bytes and the same draw. -/
theorem byteAt_congr {s t : State} (hb : s.buf = t.buf) (hd : s.draws = t.draws) (k : Nat) : byteAt s k = byteAt t k := by
  simp [byteAt, hb, hd]

@[simp] theorem byteAt_emit (e : Event) (s : State) (k : Nat) : byteAt (emit e s) k = byteAt s k := rfl
@[simp] theorem byteAt_addJunk (n : Nat) (s : State) (k : Nat) : byteAt (addJunk n s) k = byteAt s k := rfl
@[simp] theorem byteAt_answer (v : OpWord) (s : State) (k : Nat) : byteAt (answer v s) k = byteAt s k := rfl
@[simp] theorem byteAt_clearReady (s : State) (k : Nat) : byteAt (clearReady s) k = byteAt s k := rfl
@[simp] theorem byteAt_markValid (s : State) (k : Nat) : byteAt (markValid s) k = byteAt s k := rfl
@[simp] theorem byteAt_beginCycle (s : State) (k : Nat) : byteAt (beginCycle s) k = byteAt s k := rfl
@[simp] theorem byteAt_initialise (s : State) (k : Nat) :
    byteAt (initialise s) k = Config.bufDraw (s.draws + 1) k := rfl

/-- The byte just stored. -/
theorem byteAt_write_same (s : State) (k : Nat) (v : Byte) : byteAt { s with buf := s.buf.write k v } k = v := by
  simp [byteAt, Memory.read_write_same]

/-- Every other byte. -/
theorem byteAt_write_ne (s : State) {k j : Nat} (v : Byte) (h : j ≠ k) :
    byteAt { s with buf := s.buf.write k v } j = byteAt s j := by
  simp [byteAt, Memory.read_write_ne _ _ h]

/-- The write of R9 inside the buffer. -/
theorem memWrite_next {k : Nat} (hk : k < 70) (v : Byte) (s : State) :
    memWrite k v s = .next { s with buf := s.buf.write k v } := by
  simp [memWrite, hk]

/-- The write of R9 outside the buffer. -/
theorem memWrite_fault {k : Nat} (hk : 70 ≤ k) (v : Byte) (s : State) : memWrite k v s = .fault (.outsideBuffer k) := by
  simp [memWrite, Nat.not_lt.mpr hk]

/-- A range inside the buffer reads byte by byte. -/
theorem readRange_eq {s : State} {k n : Nat} (h : k + n ≤ 70) :
    readRange s k n = some ((List.range n).map fun j => byteAt s (k + j)) := by
  simp [readRange, h]

/-- `MemRead(k, 2)` is little-endian (R42). -/
theorem memRead_two {s : State} {k : Nat} (h : k + 2 ≤ 70) :
    memRead s k 2 = some ((byteAt s k).toNat + 256 * (byteAt s (k + 1)).toNat) := by
  simp [memRead, readRange_eq h, List.range_succ, littleEndian]

/-- Every byte a channel read touches is at an index 6 to 37 (R40, R164). -/
theorem channelOffset_range {i : Nat} (hi : i < 16) :
    6 ≤ channelOffset i ∧ channelOffset i + 1 ≤ 37 := by
  simp [channelOffset]; omega

/-- A residue depends on the bytes it covers and on nothing else (R140). -/
theorem residue_congr {s t : State} {n : Nat} (h : ∀ k, k < n → byteAt s k = byteAt t k) : residue s n = residue t n := by
  have : (List.range n).map (fun j => byteAt s (0 + j)) = (List.range n).map (fun j => byteAt t (0 + j)) :=
    List.map_congr_left fun j hj => by simpa using h j (List.mem_range.mp hj)
  simp only [residue, readRange, this]

/-- The reset buffer is in canonical form. -/
theorem reset_buf_wf : State.reset.buf.wf = true := rfl

/-- Reset and INIT leave the canonical form. -/
theorem initialise_buf_wf (s : State) : (initialise s).buf.wf = true := rfl

/-- The write of R9 keeps the canonical form wherever it answers a next state. -/
theorem memWrite_keeps_wf {k : Nat} {v : Byte} {s t : State} (h : memWrite k v s = .next t) (hs : s.buf.wf = true) :
    t.buf.wf = true := by
  unfold memWrite at h
  split at h
  · cases h; exact Memory.wf_write _ _ _ hs ‹_›
  · cases h

end Sys2Proof.Machine
end

