-- ==== Sys2Proof/Laws/Meanings.lean ====
section
/-! SUPPORT. Everything each meaning can do, said once: later proofs cite these instead of unfolding a meaning. -/

namespace Sys2Proof.Machine

/-- The state after a captured byte is stored at `S.pos` (R103). -/
def afterStore (b : Byte) (s : State) : State := { s with buf := s.buf.write s.pos.toNat b }

/-- The expected length after a captured byte that does not abort (R104). -/
def explenAfter (b : Byte) (s : State) : Position := if s.pos.toNat = 2 then lengthOf b else s.explen

@[simp] theorem afterStore_phase (b : Byte) (s : State) : (afterStore b s).phase = s.phase := rfl
@[simp] theorem afterStore_pos (b : Byte) (s : State) : (afterStore b s).pos = s.pos := rfl
@[simp] theorem afterStore_explen (b : Byte) (s : State) : (afterStore b s).explen = s.explen := rfl
@[simp] theorem afterStore_buf (b : Byte) (s : State) : (afterStore b s).buf = s.buf.write s.pos.toNat b := rfl
@[simp] theorem afterStore_ready (b : Byte) (s : State) : (afterStore b s).ready = s.ready := rfl
@[simp] theorem afterStore_junk (b : Byte) (s : State) : (afterStore b s).junk = s.junk := rfl
@[simp] theorem afterStore_baudValid (b : Byte) (s : State) : (afterStore b s).baudValid = s.baudValid := rfl
@[simp] theorem afterStore_draws (b : Byte) (s : State) : (afterStore b s).draws = s.draws := rfl
@[simp] theorem afterStore_events (b : Byte) (s : State) : (afterStore b s).events = s.events := rfl

/-- The stored byte reads back, every other byte as before. -/
theorem byteAt_afterStore (b : Byte) (s : State) (j : Nat) :
    byteAt (afterStore b s) j = if j = s.pos.toNat then b else byteAt s j := by
  split
  · subst_vars; exact byteAt_write_same s _ b
  · exact byteAt_write_ne s b ‹_›

theorem execRxb_start {s : State} (h : s.phase = .idle) :
    execRxb 0x3E#8 s = .next (emit .start (clearReady
      { s with phase := .capturing, pos := 1#7, explen := 7#7, buf := s.buf.write 0 0x3E#8 })) := by
  simp [execRxb, h, startCandidate, memWrite, andThen, clearReady]

theorem execRxb_junk {b : Byte} {s : State} (h : s.phase = .idle) (hb : b ≠ 0x3E#8) :
    execRxb b s = .next (emit .junk (addJunk 1 s)) := by
  simp [execRxb, h, hb, discardByte]

theorem execRxb_capturing {b : Byte} {s : State} (h : s.phase = .capturing) (hp : s.pos.toNat < 70) :
    execRxb b s = checkCaptured b (afterStore b s) := by
  simp [execRxb, h, memWrite, hp, andThen, afterStore]

theorem execRxb_lenAbort {b : Byte} {s : State} (h : s.phase = .capturing) (hp : s.pos.toNat = 2)
    (hb : 70 < b.toNat ∨ b.toNat < 7) :
    execRxb b s = .next (emit .lenAbort { afterStore b s with phase := .idle }) := by
  rw [execRxb_capturing h (by omega)]
  simp [checkCaptured, hp, lengthOutOfRange, hb, abortOnLength]

theorem execRxb_typeFilter {b : Byte} {s : State} (h : s.phase = .capturing) (hp : s.pos.toNat = 4) (hb : b ≠ 0x31#8) :
    execRxb b s = .next (emit .typeFilter { afterStore b s with phase := .idle }) := by
  rw [execRxb_capturing h (by omega)]
  simp [checkCaptured, hp, hb, filterOnType]

/-- A captured byte that neither aborts nor is filtered advances the position. -/
theorem execRxb_advance {b : Byte} {s : State} (h : s.phase = .capturing) (hp : s.pos.toNat < 70)
    (h2 : s.pos.toNat = 2 → 7 ≤ b.toNat ∧ b.toNat ≤ 70) (h4 : s.pos.toNat = 4 → b = 0x31#8) :
    execRxb b s = advance { afterStore b s with explen := explenAfter b s } := by
  rw [execRxb_capturing h hp]
  by_cases hp2 : s.pos.toNat = 2
  · have := h2 hp2
    have hr : lengthOutOfRange b = false := 
      decide_eq_false (by simp only [Config.maxLen_eq, Config.minLen_eq]; omega)
    simp [checkCaptured, hp2, hr, explenAfter]
  · have h4' : ¬(s.pos.toNat = 4 ∧ b ≠ 0x31#8) := fun ⟨ha, hb⟩ => hb (h4 ha)
    have he : ({ afterStore b s with explen := explenAfter b s } : State) = afterStore b s := by
      simp [explenAfter, hp2, afterStore]
    rw [he]
    simp only [checkCaptured, Config.lenPos_eq, Config.typePos_eq, Config.typeRc_eq, afterStore_pos, hp2, h4', if_false]

/-- Everything `advance` can do. -/
theorem advance_cases {s t : State} (h : advance s = .next t) :
    (s.pos + 1#7 ≠ s.explen ∧ t = emit .store { s with pos := s.pos + 1#7 }) ∨
    (s.pos + 1#7 = s.explen ∧ s.explen.toNat ≤ 70 ∧
      ((residue s s.explen.toNat = some 0#16 ∧
        t = emit .frameOk (markValid { s with pos := s.explen, phase := .idle })) ∨
       (residue s s.explen.toNat ≠ some 0#16 ∧
        t = emit .crcFail (addJunk s.explen.toNat { s with pos := s.explen, phase := .idle })))) := by
  unfold advance at h
  by_cases he : s.pos + 1#7 = s.explen
  · have hr : residue { s with pos := s.explen, phase := .idle } s.explen.toNat = residue s s.explen.toNat := rfl
    simp only [he, if_true, complete, hr] at h
    cases hres : residue s s.explen.toNat with
    | none => simp [hres] at h
    | some c =>
      have hle : s.explen.toNat ≤ 70 := by
        by_contra hgt
        simp [residue, readRange, Nat.not_le.mpr (Nat.lt_of_not_le hgt)] at hres
      simp only [hres] at h
      by_cases hc : c = 0#16
      · simp only [hc, if_true, Host.Outcome.next.injEq] at h
        exact .inr ⟨he, hle, .inl ⟨by rw [hc], h.symm⟩⟩
      · simp only [hc, if_false, Host.Outcome.next.injEq] at h
        exact .inr ⟨he, hle, .inr ⟨by simpa using hc, h.symm⟩⟩
  · simp only [he, if_false, Host.Outcome.next.injEq] at h
    exact .inl ⟨he, h.symm⟩

/-- Everything RXB can do where it answers a next state: the seven outcomes of R108. -/
theorem execRxb_cases {b : Byte} {s t : State} (h : execRxb b s = .next t) :
    (s.phase = .idle ∧ b = 0x3E#8 ∧ t = emit .start (clearReady
      { s with phase := .capturing, pos := 1#7, explen := 7#7, buf := s.buf.write 0 b })) ∨
    (s.phase = .idle ∧ b ≠ 0x3E#8 ∧ t = emit .junk (addJunk 1 s)) ∨
    (s.phase = .capturing ∧ s.pos.toNat < 70 ∧
      ((s.pos.toNat = 2 ∧ (70 < b.toNat ∨ b.toNat < 7) ∧ t = emit .lenAbort { afterStore b s with phase := .idle }) ∨
       (s.pos.toNat = 4 ∧ b ≠ 0x31#8 ∧ t = emit .typeFilter { afterStore b s with phase := .idle }) ∨
       ((s.pos.toNat = 2 → 7 ≤ b.toNat ∧ b.toNat ≤ 70) ∧ (s.pos.toNat = 4 → b = 0x31#8) ∧
        advance { afterStore b s with explen := explenAfter b s } = .next t))) := by
  cases hph : s.phase with
  | idle =>
    by_cases hb : b = 0x3E#8
    · subst hb
      rw [execRxb_start hph, Host.Outcome.next.injEq] at h
      exact .inl ⟨rfl, rfl, h.symm⟩
    · rw [execRxb_junk hph hb, Host.Outcome.next.injEq] at h
      exact .inr (.inl ⟨rfl, hb, h.symm⟩)
  | capturing =>
    refine .inr (.inr ⟨rfl, ?_⟩)
    have hp : s.pos.toNat < 70 := by
      by_contra hge
      simp [execRxb, hph, memWrite, hge, andThen] at h
    refine ⟨hp, ?_⟩
    by_cases h2 : s.pos.toNat = 2 ∧ (70 < b.toNat ∨ b.toNat < 7)
    · rw [execRxb_lenAbort hph h2.1 h2.2, Host.Outcome.next.injEq] at h
      exact .inl ⟨h2.1, h2.2, h.symm⟩
    by_cases h4 : s.pos.toNat = 4 ∧ b ≠ 0x31#8
    · rw [execRxb_typeFilter hph h4.1 h4.2, Host.Outcome.next.injEq] at h
      exact .inr (.inl ⟨h4.1, h4.2, h.symm⟩)
    have h2' : s.pos.toNat = 2 → 7 ≤ b.toNat ∧ b.toNat ≤ 70 := fun hp2 => by
      constructor <;> by_contra hlt <;> exact h2 ⟨hp2, by omega⟩
    have h4' : s.pos.toNat = 4 → b = 0x31#8 := fun hp4 => by
      by_contra hne; exact h4 ⟨hp4, hne⟩
    rw [execRxb_advance hph hp h2' h4'] at h
    exact .inr (.inr ⟨h2', h4', h⟩)

/-- Everything RDCH does: it always answers a next state. -/
theorem execRdch_eq (index : Byte) (s : State) :
    execRdch index s =
      if 16 ≤ index.toNat then .next (answer 0#16 s)
      else if s.ready = false then .next (answer 0#16 s)
      else .next (answer (resultWord (toMicroseconds ((byteAt s (6 + 2 * index.toNat)).toNat +
        256 * (byteAt s (6 + 2 * index.toNat + 1)).toNat))) (clearReady s)) := by
  unfold execRdch
  simp only [Config.numCh_eq, channelIndex, Config.oorReadConsumes_eq, Config.defaultValue_eq, channelOffset,
    Config.chOffset_eq, Config.chBytes_eq]
  by_cases hi : 16 ≤ index.toNat
  · simp [hi]
  · by_cases hr : s.ready = false
    · simp [hi, hr]
    · simp only [hi, hr, if_false, memRead_two (show 6 + 2 * index.toNat + 2 ≤ 70 by omega)]

theorem andThen_next {o : Host.Outcome State Fault Refusal} {f : State → Host.Outcome State Fault Refusal} {t : State} :
    andThen o f = .next t ↔ ∃ u, o = .next u ∧ f u = .next t := by
  cases o <;> simp [andThen]

end Sys2Proof.Machine
end

