-- ==== Sys2Proof/Laws/PerInstr.lean ====
section
/-! SUPPORT. Laws made per operation: the encoding of each lies in its row of the opcode table (R62) and leaves `rsv` zero. -/

namespace Sys2Proof.Laws.EncodesInRow

/-- The word of an operation matches the row of that operation, which is a row of the table, and its `rsv` field is 0. -/
def Statement (i : Instr) : Prop :=
  i.row ∈ opcodeTable ∧ i.row.matchesWord (encode i) = true ∧ rsvField (encode i) = 0#4

theorem rxb (b : Byte) : Statement (.rxb b) := by
  refine ⟨by simp [Instr.row, opcodeTable], ?_, ?_⟩
  · revert b; decide
  · revert b; decide

theorem poll : Statement .poll := ⟨by simp [Instr.row, opcodeTable], by decide, by decide⟩

theorem rdch (index : Byte) : Statement (.rdch index) := by
  refine ⟨by simp [Instr.row, opcodeTable], ?_, ?_⟩
  · revert index; decide
  · revert index; decide

theorem init : Statement .init := ⟨by simp [Instr.row, opcodeTable], by decide, by decide⟩

end Sys2Proof.Laws.EncodesInRow
end

