-- ==== Sys2Proof/Laws/Ports.lean ====
section
/-! SUPPORT. Everything a clock cycle can do, said once. -/

namespace Sys2Proof.Machine

/-- On the HOST port a word is an operation exactly when it decodes to one the HOST may issue. -/
theorem decodeHost_ok {w : OpWord} {i : Instr} : decodeHost w = .ok i ↔ decode w = .ok i ∧ i.agent = .host := by
  unfold decodeHost
  cases decode w with
  | error why => simp
  | ok j =>
    by_cases hj : j.agent = .host
    · simp only [Instr.wellFormedOn, hj, decide_true, if_true, Except.ok.injEq]
      exact ⟨fun h => ⟨h, h ▸ hj⟩, fun h => h.1⟩
    · simp only [Instr.wellFormedOn, hj, decide_false, Bool.false_eq_true, if_false, Except.ok.injEq, reduceCtorEq,
        false_iff]
      exact fun ⟨h, hi⟩ => hj (h ▸ hi)

/-- The HOST port's three cases, where it answers a next state. -/
theorem runHost_next {host : Option OpWord} {s t : State} :
    runHost host s = .next t ↔
      (host = none ∧ t = s) ∨ ∃ w i, host = some w ∧ decodeHost w = .ok i ∧ exec i s = .next t := by
  cases host with
  | none => simp [runHost, eq_comm]
  | some w => cases h : decodeHost w <;> simp [runHost, h]

/-- The RX port's two cases. -/
theorem runRx_next {rx : Option Byte} {s t : State} :
    runRx rx s = .next t ↔ (rx = none ∧ t = s) ∨ ∃ b, rx = some b ∧ execRxb b s = .next t := by
  cases rx <;> simp [runRx, exec, eq_comm]

/-- A step that answers a next state is a reset, or the HOST port and then the RX port. -/
theorem step_next {s t : State} :
    step s = .next t ↔
      ((nextCycle s).rst = true ∧ t = initialise (beginCycle s)) ∨
      ((nextCycle s).rst = false ∧
        ∃ u, runHost (nextCycle s).host (beginCycle s) = .next u ∧ runRx (nextCycle s).rx u = .next t) := by
  cases h : (nextCycle s).rst with
  | true => simp [step, runCycle, h, eq_comm]
  | false => simp [step, runCycle, h, andThen_next]

end Sys2Proof.Machine
end

