-- ==== Sys2Proof/Tests/Slice0.lean ====
section
/-! SUPPORT. Tests: words and results written out from the spec, smoke tests of well-formedness, and for each statement with
hypotheses a concrete input that meets them. -/

namespace Sys2Proof.Tests

open Sys2Proof Sys2Proof.Machine

/-! ## Helpers -/

/-- An outcome is a next state with a property. -/
def nextSat (o : Host.Outcome State Fault Refusal) (p : State → Bool) : Bool :=
  match o with
  | .next t => p t
  | _ => false

/-- A buffer that holds these bytes from index 0 up. -/
def holding (bytes : List Byte) : Memory := (List.range bytes.length).zip bytes

/-- Frame M of spec/95_test_vectors.md: the shortest valid frame. -/
def frameM : List Byte := [0x3E#8, 0x01#8, 0x07#8, 0x00#8, 0x31#8, 0xDD#8, 0x05#8]

/-- A valid frame of eight bytes, its trailer computed from R141 and R145 by a program outside this model. -/
def frameE : List Byte := [0x3E#8, 0x01#8, 0x08#8, 0x00#8, 0x31#8, 0x00#8, 0x94#8, 0xBF#8]

/-- A candidate of length 7 after `n` bytes of M. -/
def capturingM (n : Nat) : State :=
  { State.reset with phase := .capturing, pos := BitVec.ofNat 7 n, buf := holding (frameM.take n) }

/-- A frame just completed. -/
def readyWith (f : List Byte) : State :=
  { State.reset with
    pos := BitVec.ofNat 7 f.length, explen := BitVec.ofNat 7 f.length, buf := holding f, ready := true, baudValid := true }

theorem inv_reset : Inv State.reset := by constructor <;> decide
theorem inv_capturing_2 : Inv (capturingM 2) := by constructor <;> decide
theorem inv_capturing_4 : Inv (capturingM 4) := by constructor <;> decide
theorem inv_capturing_5 : Inv (capturingM 5) := by constructor <;> decide
theorem inv_capturing_6 : Inv (capturingM 6) := by constructor <;> decide
theorem inv_ready_M : Inv (readyWith frameM) := by constructor <;> decide +kernel
theorem inv_ready_E : Inv (readyWith frameE) := by constructor <;> decide +kernel

theorem crc_frameM : crc16 frameM = 0#16 := by decide +kernel

/-- The byte that completes M, and one that does not. -/
theorem crc_completion :
    crc16 ((List.range (capturingM 6).pos.toNat).map (byteAt (capturingM 6)) ++ [0x05#8]) = 0#16 ∧
    crc16 ((List.range (capturingM 6).pos.toNat).map (byteAt (capturingM 6)) ++ [0x04#8]) ≠ 0#16 := by decide +kernel

/-- The completing byte sets `S.ready` and is labelled; the other is charged. -/
theorem rxb_completion :
    nextSat (exec (.rxb 0x05#8) (capturingM 6)) (fun t => t.ready && t.events = [.frameOk]) = true ∧
    nextSat (exec (.rxb 0x04#8) (capturingM 6)) (fun t => !t.ready && t.events = [.crcFail]) = true := by decide +kernel

/-! ## Well-formedness: each check refuses an ill-formed term (R62, R63, R66) -/

theorem test_wf_rxb_only_on_rx : (Instr.rxb 0#8).wellFormedOn .host = false ∧ (Instr.rxb 0#8).wellFormedOn .rx = true := by decide
theorem test_wf_poll_only_on_host : Instr.poll.wellFormedOn .rx = false ∧ Instr.poll.wellFormedOn .host = true := by decide
theorem test_wf_rdch_only_on_host : (Instr.rdch 16#8).wellFormedOn .rx = false ∧ (Instr.rdch 16#8).wellFormedOn .host = true := by decide
theorem test_wf_init_only_on_host : Instr.init.wellFormedOn .rx = false ∧ Instr.init.wellFormedOn .host = true := by decide
theorem test_wf_asm_byte : (AsmOp.rxb 256).wellFormed = false ∧ (AsmOp.rxb 255).wellFormed = true := by decide
theorem test_wf_asm_index : (AsmOp.rdch 256).wellFormed = false ∧ (AsmOp.rdch 255).wellFormed = true := by decide
theorem test_wf_asm_frame : (AsmLine.frame []).wellFormed = false ∧ (AsmLine.frame [62, 256]).wellFormed = false := by decide
theorem test_wf_asm_rep : (AsmLine.rep 2 (.rxb 300)).wellFormed = false ∧ (AsmLine.rep 2 .poll).wellFormed = true := by decide

/-! ## Decoding: words written out from R62, and the reserved words of R63 -/

theorem test_decode_rxb : decode 0b0001000000111110#16 = .ok (.rxb 0x3E#8) := by decide
theorem test_decode_poll : decode 0b0010000000000000#16 = .ok .poll := by decide
theorem test_decode_rdch : decode 0b0011000000010000#16 = .ok (.rdch 16#8) := by decide
theorem test_decode_init : decode 0b0100000000000000#16 = .ok .init := by decide
theorem test_decode_opcode_0 : decode 0x0000#16 = .error (.opcodeReserved 0x0000#16) := by decide
theorem test_decode_opcode_5 : decode 0x5000#16 = .error (.opcodeReserved 0x5000#16) := by decide
theorem test_decode_opcode_F : decode 0xF0FF#16 = .error (.opcodeReserved 0xF0FF#16) := by decide
theorem test_decode_rsv : decode 0x3100#16 = .error (.reservedBitsSet 0x3100#16) := by decide
theorem test_decode_poll_operand : decode 0x2001#16 = .error (.operandNotZero 0x2001#16) := by decide
theorem test_decode_init_operand : decode 0x4080#16 = .error (.operandNotZero 0x4080#16) := by decide
theorem test_decode_host_rxb : decodeHost 0x103E#16 = .error (.rxbOnHostPort 0x103E#16) := by decide
theorem test_table_word : decodeTableWord 16 0x300F = some (.rdch 15#8) := by decide
theorem test_rows_are_disjoint :
    opcodeTable.Pairwise (fun a b => (a.pattern ^^^ b.pattern) &&& a.mask &&& b.mask ≠ 0#16) := by decide

/-! ## Assembler text (R66) -/

/-- Lines of program P2, a comment among them. -/
theorem test_assemble :
    assemble ("RESET\nRXB 0x3E ; start\n\nREP 2, RDCH 16\nFRAME 62 0x01".toList) =
      some [.reset, .op (.rxb 0x3E#8), .op (.rdch 16#8), .op (.rdch 16#8), .op (.rxb 62#8), .op (.rxb 1#8)] := by decide

/-- A number above 255, and a negative one, have no encoding. -/
theorem test_assemble_refuses : assemble "RXB 256".toList = none ∧ assemble "RDCH -1".toList = none := by decide

/-! ## One step of each operation, results from spec/95_test_vectors.md -/

/-- V6: a length byte of 71 aborts; the position stays 2, the junk counter 0. -/
theorem test_rxb_length_71 :
    nextSat (exec (.rxb 71#8) (capturingM 2)) (fun t =>
      t.phase = .idle && t.pos = 2#7 && t.explen = 7#7 && t.junk = 0#32 && t.events = [.lenAbort]) = true := by decide

/-- V12 with V17's wrap: `3E 01 07 00 31 00 00` fails its CRC and adds 7 to the junk counter, modulo 2^32. -/
theorem test_rxb_crc_fail_wraps :
    nextSat (exec (.rxb 0#8) { State.reset with
        phase := .capturing, pos := 6#7, buf := holding [0x3E#8, 1#8, 7#8, 0#8, 0x31#8, 0#8], junk := 0xFFFFFFFD#32 })
      (fun t => t.phase = .idle && t.pos = 7#7 && t.junk = 4#32 && !t.ready && t.events = [.crcFail]) = true := by decide +kernel

/-- V42: at 1000 the check does not fire. -/
theorem test_poll_1000 :
    nextSat (exec .poll { State.reset with junk := 1000#32 }) (fun t => t.hostResult = 0#16 && t.junk = 1000#32) = true := by
  decide

/-- V43: at 1001 it does. -/
theorem test_poll_1001 :
    nextSat (exec .poll { State.reset with junk := 1001#32 }) (fun t => t.hostResult = 2#16 && t.junk = 0#32) = true := by
  decide

/-- V33: an out-of-range read returns 0 and does not consume. -/
theorem test_rdch_16 :
    nextSat (exec (.rdch 16#8) (readyWith frameM)) (fun t => t.hostResult = 0#16 && t.ready) = true := by decide

/-- Section 2.3: raw 65532 gives 8192, with no wrap at 16 bits. -/
theorem test_rdch_no_wrap :
    nextSat (exec (.rdch 15#8) { State.reset with buf := [(36, 0xFC#8), (37, 0xFF#8)], ready := true })
      (fun t => t.hostResult = 8192#16 && !t.ready) = true := by decide

/-- V52: an INIT drops the candidate, and answers 1 where the transport opens. -/
theorem test_init :
    nextSat (exec .init { capturingM 5 with junk := 7#32, baudValid := true, transportOpenOk := true })
      (fun t => t.phase = .idle && t.pos = 0#7 && t.junk = 0#32 && !t.baudValid && t.hostResult = 1#16 && t.transportOpen)
      = true := by decide

/-- V60: a consuming read and a start marker in one cycle, HOST first. Here the frame is M with channel 0 = 0x0005 written out. -/
theorem test_same_cycle :
    nextSat (step { readyWith (frameM ++ [0x00#8]) with input := [⟨false, some 0x3000#16, some 0x3E#8, true⟩] })
      (fun t => t.phase = .capturing && t.hostResult = 1#16 && t.hostRvalid && !t.ready && t.events = [.start]) = true := by
  decide

/-- V64: a reset discards the operations of its cycle. -/
theorem test_reset_cycle :
    nextSat (step { readyWith frameM with input := [⟨true, some 0x3000#16, some 0x3E#8, true⟩] })
      (fun t => t.phase = .idle && t.pos = 0#7 && !t.hostRvalid && !t.ready && t.draws = 1) = true := by decide

/-- The word of every row of the table runs as the first operation after reset. -/
theorem test_placed_words :
    nextSat (step (State.reset.withFetchWord 16 0x103E)) (fun t => t.events = [.start]) = true ∧
    nextSat (step (State.reset.withFetchWord 16 0x2000)) (fun t => t.hostRvalid) = true ∧
    nextSat (step (State.reset.withFetchWord 16 0x30FF)) (fun t => t.hostRvalid) = true ∧
    nextSat (step (State.reset.withFetchWord 16 0x4000)) (fun t => t.transportOpen) = true := by decide

/-! ## CRC (spec/95_test_vectors.md section 2.1) -/

theorem test_crc_check_value :
    crc16 [0x31#8, 0x32#8, 0x33#8, 0x34#8, 0x35#8, 0x36#8, 0x37#8, 0x38#8, 0x39#8] = 0x2189#16 := by decide +kernel
theorem test_crc_start : crc16 [0x3E#8] = 0xD8FD#16 ∧ crc16 [0x3E#8, 0x01#8] = 0x3D3B#16 := by decide
theorem test_crc_residue : crc16 [0x3E#8, 1#8, 7#8, 0#8, 0x31#8, 0#8, 0#8] = 0xB8EE#16 := by decide +kernel
theorem test_crc_byte_form : crcUpdateByteForm 0xD8FD#16 0x01#8 = 0x3D3B#16 := by decide

/-! ## Witnesses: for each statement with hypotheses, an input that meets all of them together -/

/-- A cycle that presents one word on the HOST port. -/
def hostCycle (w : OpWord) : Cycle := ⟨false, some w, none, true⟩

theorem witness_DecodeAndEncodeAgree : decode 0x30FF#16 = .ok (.rdch 255#8) := by decide

/-- Both clauses: a word of a row, and a word of none. -/
theorem witness_DecodeFollowsTheOpcodeTable :
    decode 0x2000#16 = .ok .poll ∧ decode 0x2001#16 = .error (.operandNotZero 0x2001#16) := by decide

/-- The clauses of `reserved` at the ends of their ranges (opcodes 0, 5 and 15, `rsv`, an operand of POLL and of INIT, opcode 1), each
rejected on the HOST port; and words of the three HOST operations, which are not. -/
theorem witness_ReservedHostWordIsRefused :
    [0x0000#16, 0x5000#16, 0xF000#16, 0x2100#16, 0x2001#16, 0x40FF#16, 0x1000#16].map (fun w => (decodeHost w).toBool) =
      [false, false, false, false, false, false, false] ∧
    [0x2000#16, 0x3000#16, 0x30FF#16, 0x4000#16].map (fun w => (decodeHost w).toBool) = [true, true, true, true] ∧
    ({ State.reset with input := [hostCycle 0x0000#16] } : State).input = [hostCycle 0x0000#16] := by decide

theorem witness_StepRunsTheIssuedOperation :
    decode 0x4000#16 = .ok .init ∧ Instr.init.agent = .host ∧
    ({ State.reset with input := [hostCycle 0x4000#16] } : State).input = [⟨false, some 0x4000#16, none, true⟩] ∧
    ({ State.reset with input := [⟨false, none, some 0x3E#8, true⟩] } : State).input = [⟨false, none, some 0x3E#8, true⟩] := by
  decide

theorem witness_PlacedWordIsRunNext : decodeTableWord 16 0x103E = some (.rxb 0x3E#8) := by decide

theorem witness_SameCycleIsHostThenByte :
    ∃ t, step { State.reset with input := [⟨false, some 0x4000#16, some 0x3E#8, true⟩] } = .next t := ⟨_, rfl⟩

theorem witness_ResetDiscardsBothPorts :
    ({ State.reset with input := [⟨true, some 0xF000#16, some 0x3E#8, true⟩] } : State).input =
      [⟨true, some 0xF000#16, some 0x3E#8, true⟩] := rfl

/-- A listed silent cycle in the middle of a candidate, before a byte; and silence past the last listed cycle. -/
theorem witness_SilenceChangesNothing :
    (∀ c ∈ ({ capturingM 5 with input := [⟨false, none, none, true⟩, ⟨false, none, some 0xDD#8, true⟩] } : State).input.take 1,
      c.rst = false ∧ c.host = none ∧ c.rx = none) ∧
    ∀ c ∈ (capturingM 5).input.take 3, c.rst = false ∧ c.host = none ∧ c.rx = none := by decide

theorem witness_FrameLineFeedsItsBytes :
    Inv { State.reset with input := inputOf (expandLine (.frame [0x3E, 255])) true } := by constructor <;> decide

theorem witness_StartMarkerEntersCapturing : (readyWith frameM).phase = .idle := rfl

theorem witness_OtherByteInIdleIsJunk : State.reset.phase = .idle ∧ 0x3D#8 ≠ 0x3E#8 := by decide

/-- At offset 4 with the type byte, and at offset 5 with a start marker. -/
theorem witness_CapturedByteIsStored :
    (Inv (capturingM 4) ∧ (capturingM 4).phase = .capturing ∧ (capturingM 4).pos.toNat ≠ 2 ∧
      (capturingM 4).pos.toNat + 1 ≠ (capturingM 4).explen.toNat) ∧
    (Inv (capturingM 5) ∧ (capturingM 5).pos.toNat ≠ 2 ∧ ((capturingM 5).pos.toNat = 4 → 0x3E#8 = 0x31#8) ∧
      (capturingM 5).pos.toNat + 1 ≠ (capturingM 5).explen.toNat) :=
  ⟨⟨inv_capturing_4, by decide⟩, ⟨inv_capturing_5, by decide⟩⟩

/-- Lengths 7 and 70. -/
theorem witness_LengthByteInRangeIsTaken :
    (capturingM 2).phase = .capturing ∧ (capturingM 2).pos = 2#7 ∧
    (7 ≤ (7#8).toNat ∧ (7#8).toNat ≤ 70) ∧ (7 ≤ (70#8).toNat ∧ (70#8).toNat ≤ 70) := by decide

/-- Lengths 71 and 6. -/
theorem witness_LengthByteOutOfRangeAborts :
    (capturingM 2).phase = .capturing ∧ (capturingM 2).pos = 2#7 ∧ 70 < (71#8).toNat ∧ (6#8).toNat < 7 := by decide

theorem witness_OtherFrameTypeIsFiltered :
    (capturingM 4).phase = .capturing ∧ (capturingM 4).pos = 4#7 ∧ 0x3E#8 ≠ 0x31#8 := by decide

theorem witness_AbortingByteIsStored :
    (∃ t, exec (.rxb 71#8) (capturingM 2) = .next t) ∧ (∃ t, exec (.rxb 0x30#8) (capturingM 4) = .next t) ∧
    (capturingM 2).pos = 2#7 ∧ 70 < (71#8).toNat ∧ (capturingM 4).pos = 4#7 ∧ 0x30#8 ≠ 0x31#8 :=
  ⟨⟨_, rfl⟩, ⟨_, rfl⟩, by decide⟩

theorem witness_PassingCompletionSetsReady :
    Inv (capturingM 6) ∧ (capturingM 6).phase = .capturing ∧ (capturingM 6).pos.toNat + 1 = (capturingM 6).explen.toNat ∧
    crc16 ((List.range (capturingM 6).pos.toNat).map (byteAt (capturingM 6)) ++ [0x05#8]) = 0#16 :=
  ⟨inv_capturing_6, by decide, by decide, crc_completion.1⟩

theorem witness_FailingCompletionChargesTheFrame :
    Inv (capturingM 6) ∧ (capturingM 6).phase = .capturing ∧ (capturingM 6).pos.toNat + 1 = (capturingM 6).explen.toNat ∧
    crc16 ((List.range (capturingM 6).pos.toNat).map (byteAt (capturingM 6)) ++ [0x04#8]) ≠ 0#16 :=
  ⟨inv_capturing_6, by decide, by decide, crc_completion.2⟩

theorem witness_CandidateIsValidExactlyWhenResidueIsZero :
    Inv (capturingM 6) ∧ (capturingM 6).phase = .capturing ∧ (capturingM 6).pos.toNat + 1 = (capturingM 6).explen.toNat ∧
    nextSat (exec (.rxb 0x05#8) (capturingM 6)) (fun t => t.ready && t.events = [.frameOk]) = true :=
  ⟨inv_capturing_6, by decide, by decide, rxb_completion.1⟩

/-- One byte of each of the seven outcomes, in states that meet the invariant. -/
theorem witness_EachByteHasExactlyOneOutcome :
    Inv State.reset ∧ Inv (capturingM 2) ∧ Inv (capturingM 4) ∧ Inv (capturingM 5) ∧ Inv (capturingM 6) ∧
    nextSat (exec (.rxb 0x3E#8) State.reset) (fun t => t.events = [.start]) = true ∧
    nextSat (exec (.rxb 0x00#8) State.reset) (fun t => t.events = [.junk]) = true ∧
    nextSat (exec (.rxb 0x06#8) (capturingM 2)) (fun t => t.events = [.lenAbort]) = true ∧
    nextSat (exec (.rxb 0x30#8) (capturingM 4)) (fun t => t.events = [.typeFilter]) = true ∧
    nextSat (exec (.rxb 0x3E#8) (capturingM 5)) (fun t => t.events = [.store]) = true ∧
    nextSat (exec (.rxb 0x05#8) (capturingM 6)) (fun t => t.ready && t.events = [.frameOk]) = true ∧
    nextSat (exec (.rxb 0x04#8) (capturingM 6)) (fun t => !t.ready && t.events = [.crcFail]) = true :=
  ⟨inv_reset, inv_capturing_2, inv_capturing_4, inv_capturing_5, inv_capturing_6, by decide, by decide, by decide, by decide,
    by decide, rxb_completion⟩

theorem witness_ReceivedByteFrame : ∃ t, exec (.rxb 0x01#8) (capturingM 5) = .next t := ⟨_, rfl⟩

theorem witness_JunkCounterCountsOnlyDiscardedBytes :
    (∃ t, exec (.rxb 0x00#8) State.reset = .next t) ∧ (∃ t, exec .poll State.reset = .next t) ∧
    (∃ t, exec (.rdch 0#8) State.reset = .next t) ∧ (∃ t, exec .init State.reset = .next t) :=
  ⟨⟨_, rfl⟩, ⟨_, rfl⟩, ⟨_, rfl⟩, ⟨_, rfl⟩⟩

theorem witness_JunkBytesAreCountedEachOnce :
    State.reset.phase = .idle ∧ ∀ b ∈ [0x00#8, 0xFF#8, 0x55#8], b ≠ 0x3E#8 := by decide

theorem shape_frameM : frameShape frameM := ⟨by decide, by decide, by decide, by decide, by decide⟩

theorem witness_WholeFrameFedFromIdle : frameShape frameM ∧ State.reset.phase = .idle ∧ crc16 frameM = 0#16 :=
  ⟨shape_frameM, rfl, crc_frameM⟩

/-- Channels 0 and 15, the first and the last. -/
theorem witness_FirstReadReturnsTheFramesChannel :
    frameShape frameM ∧ crc16 frameM = 0#16 ∧ State.reset.phase = .idle ∧ (0#8).toNat < 16 ∧ (15#8).toNat < 16 :=
  ⟨shape_frameM, crc_frameM, rfl, by decide⟩

/-- Frame M with type 0x3A. -/
theorem witness_FilteredFrameIsCountedFromOffsetFive :
    let f : List Byte := [0x3E#8, 0x01#8, 0x07#8, 0x00#8, 0x3A#8, 0xDD#8, 0x05#8]
    State.reset.phase = .idle ∧ 7 ≤ f.length ∧ f.length ≤ 70 ∧ f[0]? = some 0x3E#8 ∧
    f[2]?.map BitVec.toNat = some f.length ∧ f[4]? ≠ some 0x31#8 ∧ ∀ b ∈ f.drop 5, b ≠ 0x3E#8 := by decide

theorem witness_FrameAfterABadLengthIsReceived :
    State.reset.phase = .idle ∧ 70 < (71#8).toNat ∧ (6#8).toNat < 7 ∧ frameShape frameM ∧ crc16 frameM = 0#16 :=
  ⟨rfl, by decide, by decide, shape_frameM, crc_frameM⟩

/-- The last bit of the last byte, and a bit of offset 1. -/
theorem witness_SingleBitErrorIsDetected :
    crc16 frameM = 0#16 ∧ 6 < frameM.length ∧ 1 < frameM.length ∧ 7 < 8 ∧ frameShape frameM ∧ State.reset.phase = .idle :=
  ⟨crc_frameM, by decide, by decide, by decide, shape_frameM, rfl⟩

theorem witness_OutOfRangeReadReturnsZero : 16 ≤ (16#8).toNat ∧ 16 ≤ (255#8).toNat := by decide

theorem witness_ReadWithNoFrameReturnsZero : (15#8).toNat < 16 ∧ State.reset.ready = false := by decide

theorem witness_ConsumingReadReturnsTheChannel : (0#8).toNat < 16 ∧ (15#8).toNat < 16 ∧ (readyWith frameM).ready = true := by
  decide

theorem witness_ChannelIsTwoBytesLittleEndian :
    (0#8).toNat < 16 ∧ (15#8).toNat < 16 ∧ (readyWith frameM).ready = true ∧
    (∃ t, exec (.rdch 0#8) (readyWith frameM) = .next t) ∧ (∃ t, exec (.rdch 15#8) (readyWith frameM) = .next t) ∧
    ∃ t, exec (.rdch 15#8) { readyWith frameM with explen := 40#7 } = .next t :=
  ⟨by decide, by decide, by decide, ⟨_, rfl⟩, ⟨_, rfl⟩, ⟨_, rfl⟩⟩

/-- A state whose channel 0 has raw 3 (result 0) or 4 (result 1), the edge between two results. -/
theorem witness_ReadResultRange :
    nextSat (exec (.rdch 0#8) { State.reset with buf := [(6, 3#8), (7, 0#8)], ready := true }) (fun t => t.hostResult = 0#16) ∧
    nextSat (exec (.rdch 0#8) { State.reset with buf := [(6, 4#8), (7, 0#8)], ready := true }) (fun t => t.hostResult = 1#16) := by
  decide

theorem witness_OneChannelPerFrame :
    (0#8).toNat < 16 ∧ (∃ t, exec (.rdch 0#8) (readyWith frameM) = .next t) ∧
    ∀ o ∈ [Instr.poll, .rdch 1#8, .init], o.agent = .host := ⟨by decide, ⟨_, rfl⟩, by decide⟩

theorem witness_PollFiresAndResetsTheJunkCounter :
    State.reset.baudValid = false ∧ 1000 < ({ State.reset with junk := 1001#32 } : State).junk.toNat := by decide

theorem witness_PollReportsReady :
    (readyWith frameM).baudValid = true ∧ ({ State.reset with junk := 1000#32 } : State).junk.toNat ≤ 1000 := by decide

/-- The check at 1000 and at 1001, and the byte sequences of T7. -/
theorem witness_HealthThresholdIsStrict :
    (∃ t, exec .poll { State.reset with junk := 1000#32 } = .next t) ∧
    (∃ t, exec .poll { State.reset with junk := 1001#32 } = .next t) ∧
    State.reset.phase = .idle ∧ State.reset.baudValid = false ∧ State.reset.junk = 0#32 ∧
    (List.replicate 1001 0#8).length = 1001 ∧ (List.replicate 999 0#8).length = 999 ∧
    (∀ b ∈ List.replicate 1001 0#8, b ≠ 0x3E#8) ∧ ∀ b ∈ List.replicate 999 0#8, b ≠ 0x3E#8 :=
  ⟨⟨_, rfl⟩, ⟨_, rfl⟩, rfl, rfl, rfl, List.length_replicate, List.length_replicate,
    fun b hb => by rw [List.eq_of_mem_replicate hb]; decide, fun b hb => by rw [List.eq_of_mem_replicate hb]; decide⟩

theorem witness_BaudValidIsStickyAndGatesTheCheck :
    nextSat (exec (.rxb 0x05#8) (capturingM 6)) (fun t => t.ready && t.events = [.frameOk]) = true ∧
    (readyWith frameM).baudValid = true ∧ Instr.init ∉ [Instr.rdch 0#8, .rxb 0x3E#8, .poll] ∧
    ∃ t, runOps [.rdch 0#8, .rxb 0x3E#8, .poll] (readyWith frameM) = .next t := ⟨rxb_completion.1, rfl, by decide, ⟨_, rfl⟩⟩

theorem witness_SecondPollNeverFires :
    ∃ t u, exec .poll { State.reset with junk := 5000#32 } = .next t ∧ exec .poll t = .next u := ⟨_, _, rfl, rfl⟩

theorem witness_PollNeverAnswersThree : Inv (readyWith frameM) ∧ ∃ t, exec .poll (readyWith frameM) = .next t :=
  ⟨inv_ready_M, ⟨_, rfl⟩⟩

theorem witness_HostReadsLeaveTheAssemblerAlone :
    (∃ t, exec .poll (capturingM 5) = .next t) ∧ ∃ t, exec (.rdch 3#8) (readyWith frameM) = .next t := ⟨⟨_, rfl⟩, ⟨_, rfl⟩⟩

theorem witness_EveryStepKeepsTheInvariant : Inv (readyWith frameM) ∧ ∃ t, step (readyWith frameM) = .next t :=
  ⟨inv_ready_M, ⟨_, rfl⟩⟩

/-- Two agents in one cycle, then a reset with a reserved word beside it. -/
theorem witness_NothingStopsTheBlock :
    Inv { State.reset with input := [⟨false, some 0x2000#16, some 0x3E#8, true⟩, ⟨true, some 0xF000#16, none, true⟩] } ∧
    hostDuties [⟨false, some 0x2000#16, some 0x3E#8, true⟩, ⟨true, some 0xF000#16, none, true⟩] = true :=
  ⟨by constructor <;> decide, by decide⟩

theorem witness_OnlyAPassingCompletionSetsReady :
    Inv (capturingM 6) ∧ (capturingM 6).ready = false ∧
    nextSat (exec (.rxb 0x05#8) (capturingM 6)) (fun t => t.ready && t.events = [.frameOk]) = true :=
  ⟨inv_capturing_6, rfl, rxb_completion.1⟩

theorem witness_ReadyFrameIsNeverTorn :
    Inv (readyWith frameM) ∧ nextSat (step (readyWith frameM)) (fun t => t.ready) = true := ⟨inv_ready_M, by decide⟩

theorem witness_IdlePositionIsUnobservable :
    SameButIdleHidden State.reset { State.reset with pos := 4#7, explen := 29#7 } ∧ ∃ t, step State.reset = .next t :=
  ⟨⟨rfl, (fun h => by cases h), rfl, rfl, rfl, rfl, ⟨rfl, rfl, rfl, rfl, rfl⟩, rfl⟩, ⟨_, rfl⟩⟩

/-- Two states with no frame ready that differ in a channel's bytes, and two with one ready that agree on them. -/
theorem witness_HostSeesOnlyFlagsHealthAndChannelBytes :
    (Instr.rdch 0#8).agent = .host ∧
    SameToHost State.reset { State.reset with buf := [(6, 0xF8#8), (7, 0x0F#8)], junk := 999#32 } ∧
    (∃ t, exec (.rdch 0#8) State.reset = .next t) ∧
    (∃ t, exec (.rdch 0#8) { State.reset with buf := [(6, 0xF8#8), (7, 0x0F#8)], junk := 999#32 } = .next t) ∧
    SameToHost (readyWith frameM) { readyWith frameM with pos := 4#7 } ∧
    (∃ t, exec (.rdch 15#8) (readyWith frameM) = .next t) ∧
    ∃ t, exec (.rdch 15#8) { readyWith frameM with pos := 4#7 } = .next t :=
  ⟨rfl, ⟨rfl, by decide, (fun h => by cases h), rfl⟩, ⟨_, rfl⟩, ⟨_, rfl⟩, ⟨rfl, rfl, fun _ _ _ _ => rfl, rfl⟩, ⟨_, rfl⟩, ⟨_, rfl⟩⟩

/-- Channel 0 of a frame of eight bytes, the shortest that holds it. -/
theorem witness_DrawShowsOnlyPastTheFrame :
    Inv (readyWith frameE) ∧ (readyWith frameE).ready = true ∧ 7 + 2 * (0#8).toNat < (readyWith frameE).explen.toNat ∧
    (∃ t, exec (.rdch 0#8) (readyWith frameE) = .next t) ∧ ∃ t, exec (.rxb 0x3E#8) (readyWith frameE) = .next t :=
  ⟨inv_ready_E, rfl, by decide, ⟨_, rfl⟩, ⟨_, rfl⟩⟩

theorem witness_UnopenedTransportLeavesNothingToRead :
    State.reset.ready = false ∧ rxDuty true [hostCycle 0x2000#16] = true ∧
    (∀ c ∈ [hostCycle 0x2000#16], c.rst = false ∧ initOpens c = false) ∧
    ∃ t, Sys2Proof.core.run 1 { State.reset with input := [hostCycle 0x2000#16] } = .next t :=
  ⟨rfl, by decide, by decide, ⟨_, rfl⟩⟩

end Sys2Proof.Tests
end

section
/-! PROOFS. RXB in IDLE, at the type byte and at a completion (spec/41_frame_assembler.md): the laws of a completion, then the
obligations O18, O19, O12 and O16. -/

namespace Sys2Proof.Machine

/-- The rule of `exec` for a received byte (R100). -/
@[simp] theorem exec_rxb (b : Byte) (s : State) : exec (.rxb b) s = execRxb b s := rfl

/-- A captured byte changes no index but the position it is stored at (R103). -/
theorem sameBytesBut_afterStore (b : Byte) (s : State) : SameBytesBut s.pos.toNat s (afterStore b s) :=
  fun _ hj => byteAt_write_ne s b hj

/-- A candidate's bytes after a store at the position are its bytes so far and then the stored one. -/
theorem candidateBytes_afterStore (b : Byte) (s : State) :
    (List.range (s.pos.toNat + 1)).map (byteAt (afterStore b s)) = (List.range s.pos.toNat).map (byteAt s) ++ [b] := by
  have hbefore : (List.range s.pos.toNat).map (byteAt (afterStore b s)) = (List.range s.pos.toNat).map (byteAt s) :=
    List.map_congr_left fun _ hj => sameBytesBut_afterStore b s _ (List.mem_range.mp hj).ne
  simp [List.range_succ, hbefore, byteAt_afterStore]

/-- The residue over the first `n` bytes of the buffer is their CRC, wherever they lie inside it (R140). -/
theorem residue_eq_crc16 {s : State} {n : Nat} (hn : n ≤ 70) :
    residue s n = some (crc16 ((List.range n).map (byteAt s))) := by
  simp [residue, readRange, hn]

/-- A candidate that has ended, before the CRC decides about it: IDLE, the position at the expected length (R106, R107). -/
def endCandidate (s : State) : State := { s with phase := .idle, pos := s.explen }

/-- The CRC's decision about a candidate that has ended (R106, R107). -/
def settleCandidate (crc : CrcReg) (s : State) : State :=
  if crc = 0#Config.crcWidth then emit .frameOk (markValid s) else emit .crcFail (addJunk s.explen.toNat s)

/-- Where the next position is the expected length, `advance` ends the candidate and settles it by its residue. -/
theorem advance_complete {s : State} {crc : CrcReg} (hend : s.pos + 1#7 = s.explen)
    (hcrc : residue s s.explen.toNat = some crc) : advance s = .next (settleCandidate crc (endCandidate s)) := by
  have hres : residue { s with pos := s.explen, phase := .idle } s.explen.toNat = some crc := hcrc
  simp only [advance, hend, if_true, complete, hres, settleCandidate, endCandidate]
  split <;> rfl

/-- The byte that completes a candidate stands at offset 6 or above, so that it is stored and meets no check, and the CRC over
the candidate's bytes with this one decides (R100, R106, R107). -/
theorem execRxb_complete {b : Byte} {s : State} (hinv : Inv s) (hcap : s.phase = .capturing)
    (hend : s.pos.toNat + 1 = s.explen.toNat) :
    execRxb b s = .next (settleCandidate (crc16 ((List.range s.pos.toNat).map (byteAt s) ++ [b]))
      (endCandidate (afterStore b s))) := by
  obtain ⟨hmin, hmax⟩ := hinv.explenRange
  have hexplen : ({ afterStore b s with explen := explenAfter b s } : State) = afterStore b s := by
    simp [explenAfter, show s.pos.toNat ≠ 2 by omega, afterStore]
  have hpos : s.pos + 1#7 = s.explen := by bv_omega
  have hcrc : residue (afterStore b s) s.explen.toNat = some (crc16 ((List.range s.pos.toNat).map (byteAt s) ++ [b])) := by
    rw [residue_eq_crc16 hmax, ← hend, candidateBytes_afterStore]
  rw [execRxb_advance hcap (by omega) (by omega) (by omega), hexplen]
  exact advance_complete hpos hcrc

/-- Settles O18: by `execRxb_complete` the CRC decides about the completed candidate, and here it is zero. -/
theorem passingCompletionSetsReady : Obligations.PassingCompletionSetsReady := by
  unfold Obligations.PassingCompletionSetsReady
  intro b s hinv hcap hend hcrc
  have hrun := execRxb_complete (b := b) hinv hcap hend
  rw [settleCandidate, if_pos hcrc] at hrun
  exact ⟨_, (exec_rxb b s).trans hrun, rfl, rfl, rfl, rfl, rfl, rfl, byteAt_write_same s _ b,
    sameBytesBut_afterStore b s, ⟨rfl, rfl, rfl, rfl, rfl⟩, rfl, rfl⟩

/-- Settles O19: by `execRxb_complete` the CRC decides about the completed candidate, and here it is not zero; that `S.ready`
was 0 is the invariant's. -/
theorem failingCompletionChargesTheFrame : Obligations.FailingCompletionChargesTheFrame := by
  unfold Obligations.FailingCompletionChargesTheFrame
  intro b s hinv hcap hend hcrc
  have hrun := execRxb_complete (b := b) hinv hcap hend
  rw [settleCandidate, if_neg hcrc] at hrun
  obtain ⟨-, -, -, hready⟩ := hinv.capturing hcap
  exact ⟨_, (exec_rxb b s).trans hrun, rfl, rfl, rfl, hready, rfl, rfl, byteAt_write_same s _ b,
    sameBytesBut_afterStore b s, ⟨rfl, rfl, rfl, rfl, rfl⟩, rfl, rfl⟩

/-- Settles O12: the byte is counted and labelled, and neither touches another field. -/
theorem otherByteInIdleIsJunk : Obligations.OtherByteInIdleIsJunk := by
  unfold Obligations.OtherByteInIdleIsJunk
  intro b s hidle hb
  exact ⟨_, (exec_rxb b s).trans (execRxb_junk hidle hb), hidle, rfl, fun _ => rfl, rfl, rfl, rfl, rfl,
    ⟨rfl, rfl, rfl, rfl, rfl⟩, rfl, rfl⟩

/-- Settles O16: the byte is stored at index 4, the phase returns to IDLE, and nothing else changes but the label. -/
theorem otherFrameTypeIsFiltered : Obligations.OtherFrameTypeIsFiltered := by
  unfold Obligations.OtherFrameTypeIsFiltered
  intro b s hcap hpos hb
  have htype : s.pos.toNat = 4 := by simp [hpos]
  have hframe := sameBytesBut_afterStore b s
  rw [htype] at hframe
  exact ⟨_, (exec_rxb b s).trans (execRxb_typeFilter hcap htype hb), rfl, rfl, rfl, hframe, rfl, rfl,
    ⟨rfl, rfl, rfl, rfl, rfl⟩, rfl, rfl⟩

end Sys2Proof.Machine
end

section
/-! PROOFS. RDCH, the channel read (spec/43_channel_decoder.md): the laws of a read with and without a ready frame, then the
obligations O33 and O35. -/

namespace Sys2Proof.Machine

/-- The rule of `exec` for a channel read (R160). -/
@[simp] theorem exec_rdch (index : Byte) (s : State) : exec (.rdch index) s = execRdch index s := rfl

/-- The two bytes of a channel as one number, the byte at the lower index the less significant (R42, R164). -/
def channelRaw (s : State) (index : Byte) : Nat :=
  (byteAt s (6 + 2 * index.toNat)).toNat + 256 * (byteAt s (7 + 2 * index.toNat)).toNat

/-- The high byte of a channel stands one index above the low byte (R164). -/
theorem channelRaw_eq_adjacent (s : State) (index : Byte) :
    channelRaw s index =
      (byteAt s (6 + 2 * index.toNat)).toNat + 256 * (byteAt s (6 + 2 * index.toNat + 1)).toNat := by
  rw [channelRaw, show 6 + 2 * index.toNat + 1 = 7 + 2 * index.toNat by omega]

/-- A channel's number is its high byte followed by its low byte (R164). -/
theorem channelRaw_eq_append (s : State) (index : Byte) :
    channelRaw s index = (byteAt s (7 + 2 * index.toNat) ++ byteAt s (6 + 2 * index.toNat)).toNat := by
  have hlow := (byteAt s (6 + 2 * index.toNat)).isLt
  rw [BitVec.toNat_append, ← Nat.shiftLeft_add_eq_or_of_lt hlow, Nat.shiftLeft_eq, channelRaw]
  omega

/-- `MemRead` at a channel's low byte is the channel's number (R42, R164). -/
theorem memRead_channel {index : Byte} (hindex : index.toNat < 16) (s : State) :
    memRead s (6 + 2 * index.toNat) 2 = some (channelRaw s index) := by
  rw [memRead_two (by omega), channelRaw_eq_adjacent]

/-- Two states that agree on a channel's two bytes agree on its number (R164). -/
theorem channelRaw_congr {s t : State} {index : Byte}
    (hlow : byteAt s (6 + 2 * index.toNat) = byteAt t (6 + 2 * index.toNat))
    (hhigh : byteAt s (7 + 2 * index.toNat) = byteAt t (7 + 2 * index.toNat)) :
    channelRaw s index = channelRaw t index := by
  rw [channelRaw, channelRaw, hlow, hhigh]

/-- With no frame ready, a read of any index answers 0 and leaves the rest of the state (R161, R162). -/
theorem execRdch_notReady {index : Byte} {s : State} (hready : s.ready = false) :
    execRdch index s = .next (answer 0#16 s) := by
  rw [execRdch_eq, if_pos hready, ite_self]

/-- The consuming read: the channel's number in microseconds, and the frame no longer ready (R163, R165). -/
theorem execRdch_consume {index : Byte} {s : State} (hindex : index.toNat < 16) (hready : s.ready = true) :
    execRdch index s = .next (answer (resultWord (toMicroseconds (channelRaw s index))) (clearReady s)) := by
  rw [execRdch_eq, if_neg (by omega), if_neg (by simp [hready]), channelRaw_eq_adjacent]

/-- What a consuming read puts on `host_result` (R165). -/
theorem hostResult_of_consume {index : Byte} {s t : State} (hindex : index.toNat < 16) (hready : s.ready = true)
    (hrun : exec (.rdch index) s = .next t) : t.hostResult = resultWord (toMicroseconds (channelRaw s index)) := by
  rw [exec_rdch, execRdch_consume hindex hready, Host.Outcome.next.injEq] at hrun
  rw [← hrun, answer]

/-- Settles O33: with no frame ready the read only answers, by `execRdch_notReady`. -/
theorem readWithNoFrameReturnsZero : Obligations.ReadWithNoFrameReturnsZero := by
  unfold Obligations.ReadWithNoFrameReturnsZero
  intro index s _ hready
  exact (exec_rdch index s).trans (execRdch_notReady hready)

/-- Settles O35: `MemRead` gives the channel's number, and a consuming read's result is a function of that number alone. -/
theorem channelIsTwoBytesLittleEndian : Obligations.ChannelIsTwoBytesLittleEndian := by
  unfold Obligations.ChannelIsTwoBytesLittleEndian
  intro index s t hindex hready hrun lo hi
  have hoffset : lo = channelOffset (channelIndex index) := rfl
  have hread : memRead s lo 2 = some (byteAt s hi ++ byteAt s lo).toNat := by
    rw [memRead_channel hindex, channelRaw_eq_append]
  refine ⟨by omega, by omega, hoffset, hread, ?_⟩
  intro s' t' hready' hlow hhigh hrun'
  rw [hostResult_of_consume hindex hready' hrun', hostResult_of_consume hindex hready hrun,
    channelRaw_congr hlow hhigh]

end Sys2Proof.Machine
end

section
/-! PROOFS. The health check inside POLL and the Baud-Valid flag (spec/44_link_health.md): the laws of POLL, of Baud-Valid under
each operation and of runs of operations, then the obligations O40 and O41. -/

namespace Sys2Proof.Machine

/-- The check's condition in numbers (R180, R181). -/
theorem linkUnhealthy_iff (s : State) : linkUnhealthy s = true ↔ s.baudValid = false ∧ 1000 < s.junk.toNat := by
  simp only [linkUnhealthy, Bool.and_eq_true, Bool.not_eq_true', decide_eq_true_eq]
  rw [Config.junkThreshold_eq]

/-- At a count of 1000 or below the check does not fire (R181). -/
theorem linkUnhealthy_of_le {s : State} (h : s.junk.toNat ≤ 1000) : linkUnhealthy s = false :=
  Bool.eq_false_iff.mpr fun hfires => Nat.not_lt.mpr h ((linkUnhealthy_iff s).mp hfires).2

/-- With Baud-Valid set the check does not fire, however large the count (R182). -/
theorem linkUnhealthy_of_baudValid {s : State} (h : s.baudValid = true) : linkUnhealthy s = false := by
  simp [linkUnhealthy, h]

/-- Bit 1 of POLL's word is the retry bit (R65). -/
@[simp] theorem pollWord_getLsbD_one (retry ready : Bool) : (pollWord retry ready).getLsbD 1 = retry := by
  cases retry <;> cases ready <;> rfl

theorem healthCheck_junk (s : State) : (healthCheck s).junk = if linkUnhealthy s then 0#32 else s.junk := by
  unfold healthCheck
  split <;> rfl

@[simp] theorem healthCheck_phase (s : State) : (healthCheck s).phase = s.phase := by
  unfold healthCheck
  split <;> rfl

@[simp] theorem healthCheck_baudValid (s : State) : (healthCheck s).baudValid = s.baudValid := by
  unfold healthCheck
  split <;> rfl

/-- The only label the check gives is EV_LINK_UNHEALTHY (R180, R201). -/
theorem healthCheck_events (s : State) :
    (healthCheck s).events = if linkUnhealthy s then s.events ++ [.linkUnhealthy] else s.events := by
  unfold healthCheck
  split <;> rfl

/-- The state a POLL leaves (R190). -/
def afterPoll (s : State) : State := answer (pollWord (linkUnhealthy s) s.ready) (healthCheck s)

/-- The rule of `exec` for POLL (R190): it always answers a next state. -/
@[simp] theorem exec_poll (s : State) : exec .poll s = .next (afterPoll s) := rfl

@[simp] theorem afterPoll_phase (s : State) : (afterPoll s).phase = s.phase := healthCheck_phase s

@[simp] theorem afterPoll_baudValid (s : State) : (afterPoll s).baudValid = s.baudValid := healthCheck_baudValid s

@[simp] theorem afterPoll_retry (s : State) : (afterPoll s).hostResult.getLsbD 1 = linkUnhealthy s :=
  pollWord_getLsbD_one _ _

/-- Where the check fires, the counter returns to 0 (R180). -/
theorem afterPoll_junk_of_unhealthy {s : State} (h : linkUnhealthy s = true) : (afterPoll s).junk = 0#32 :=
  (healthCheck_junk s).trans (if_pos h)

/-- Where the check does not fire, the counter stays (R183). -/
theorem afterPoll_junk_of_healthy {s : State} (h : linkUnhealthy s = false) : (afterPoll s).junk = s.junk :=
  (healthCheck_junk s).trans (if_neg (Bool.eq_false_iff.mp h))

theorem feed_cons (b : Byte) (bytes : List Byte) (s : State) :
    feed (b :: bytes) s = andThen (execRxb b s) (feed bytes) := rfl

/-- Bytes with no start marker among them, fed in IDLE, are counted one by one and leave IDLE and Baud-Valid (R102). -/
theorem feed_junk {bytes : List Byte} {s : State} (hidle : s.phase = .idle) (hbytes : ∀ b ∈ bytes, b ≠ 0x3E#8) :
    ∃ t, feed bytes s = .next t ∧ t.phase = .idle ∧ t.baudValid = s.baudValid ∧
      t.junk = s.junk + BitVec.ofNat 32 bytes.length := by
  induction bytes generalizing s with
  | nil => exact ⟨s, rfl, hidle, rfl, by simp⟩
  | cons b bytes ih =>
    obtain ⟨hb, hrest⟩ := List.forall_mem_cons.mp hbytes
    obtain ⟨t, hfeed, hphase, hvalid, hjunk⟩ := ih (s := emit .junk (addJunk 1 s)) hidle hrest
    have hcount : t.junk = s.junk + BitVec.ofNat 32 (bytes.length + 1) := by
      rw [hjunk, emit_junk, addJunk_junk, BitVec.add_assoc, Nat.add_comm, ← BitVec.ofNat_add]
    exact ⟨t, by rw [feed_cons, execRxb_junk hidle hb, andThen, hfeed], hphase, hvalid, hcount⟩

/-- Fewer than 2^32 such bytes, fed with no junk counted yet, leave their own number on the counter. -/
theorem feed_junk_from_zero {bytes : List Byte} {s : State} (hidle : s.phase = .idle) (hvalid : s.baudValid = false)
    (hzero : s.junk = 0#32) (hlen : bytes.length < 2 ^ 32) (hbytes : ∀ b ∈ bytes, b ≠ 0x3E#8) :
    ∃ t, feed bytes s = .next t ∧ t.phase = .idle ∧ t.baudValid = false ∧ t.junk.toNat = bytes.length := by
  obtain ⟨t, hfeed, hphase, hkept, hjunk⟩ := feed_junk hidle hbytes
  refine ⟨t, hfeed, hphase, hkept.trans hvalid, ?_⟩
  rw [hjunk, hzero, BitVec.zero_add, BitVec.toNat_ofNat, Nat.mod_eq_of_lt hlen]

/-- Settles O40: the retry bit is the check's condition, which with Baud-Valid clear is the count above 1000; junk bytes raise
the count by one each. -/
theorem healthThresholdIsStrict : Obligations.HealthThresholdIsStrict := by
  unfold Obligations.HealthThresholdIsStrict
  constructor
  · intro s t hpoll hvalid
    obtain rfl : afterPoll s = t := Host.Outcome.next.inj hpoll
    rw [afterPoll_retry]
    refine ⟨fun hat => ?_, fun habove => ?_, by simp [linkUnhealthy_iff, hvalid]⟩
    · have hquiet : linkUnhealthy s = false := linkUnhealthy_of_le (by rw [hat]; decide)
      exact ⟨hquiet, (afterPoll_junk_of_healthy hquiet).trans hat⟩
    · have hfires : linkUnhealthy s = true := (linkUnhealthy_iff s).mpr ⟨hvalid, by rw [habove]; decide⟩
      exact ⟨hfires, afterPoll_junk_of_unhealthy hfires⟩
  · intro first second s hidle hvalid hzero hfirst hsecond hfirstJunk hsecondJunk
    obtain ⟨t, hfeedFirst, htIdle, htValid, htJunk⟩ :=
      feed_junk_from_zero hidle hvalid hzero (by omega) hfirstJunk
    have hfires : linkUnhealthy t = true := (linkUnhealthy_iff t).mpr ⟨htValid, by omega⟩
    have hcleared := afterPoll_junk_of_unhealthy hfires
    obtain ⟨v, hfeedSecond, -, -, hvJunk⟩ :=
      feed_junk_from_zero (s := afterPoll t) (by simpa using htIdle) (by simpa using htValid) hcleared (by omega)
        hsecondJunk
    have hquiet : linkUnhealthy v = false := linkUnhealthy_of_le (by omega)
    exact ⟨t, afterPoll t, v, afterPoll v, hfeedFirst, exec_poll t, (afterPoll_retry t).trans hfires, hcleared,
      hfeedSecond, exec_poll v, (afterPoll_retry v).trans hquiet⟩

/-- `BaudMove s t`: from `s` to `t` Baud-Valid was set under the label EV_FRAME_OK, or stood still under no such label. -/
def BaudMove (s t : State) : Prop :=
  (t.events = s.events ++ [.frameOk] ∧ t.baudValid = true) ∨
  (t.events ≠ s.events ++ [.frameOk] ∧ t.baudValid = s.baudValid)

/-- A label other than EV_FRAME_OK, Baud-Valid unchanged. -/
theorem baudMove_of_label {s t : State} {e : Event} (he : e ≠ .frameOk) (hevents : t.events = s.events ++ [e])
    (hvalid : t.baudValid = s.baudValid) : BaudMove s t :=
  .inr ⟨by simpa [hevents] using he, hvalid⟩

/-- No label, Baud-Valid unchanged. -/
theorem baudMove_of_unlabelled {s t : State} (hevents : t.events = s.events) (hvalid : t.baudValid = s.baudValid) :
    BaudMove s t :=
  .inr ⟨by simp [hevents], hvalid⟩

/-- Only a passing completion moves Baud-Valid (R106). -/
theorem advance_baudMove {s t : State} (h : advance s = .next t) : BaudMove s t := by
  obtain ⟨-, rfl⟩ | ⟨-, -, ⟨-, rfl⟩ | ⟨-, rfl⟩⟩ := advance_cases h
  · exact baudMove_of_label (e := .store) (by decide) rfl rfl
  · exact .inl ⟨rfl, rfl⟩
  · exact baudMove_of_label (e := .crcFail) (by decide) rfl rfl

theorem execRxb_baudMove {b : Byte} {s t : State} (h : execRxb b s = .next t) : BaudMove s t := by
  obtain ⟨-, -, rfl⟩ | ⟨-, -, rfl⟩ | ⟨-, -, ⟨-, -, rfl⟩ | ⟨-, -, rfl⟩ | ⟨-, -, hadvance⟩⟩ := execRxb_cases h
  · exact baudMove_of_label (e := .start) (by decide) rfl rfl
  · exact baudMove_of_label (e := .junk) (by decide) rfl rfl
  · exact baudMove_of_label (e := .lenAbort) (by decide) rfl rfl
  · exact baudMove_of_label (e := .typeFilter) (by decide) rfl rfl
  · have hmove := advance_baudMove hadvance
    exact hmove

theorem execRdch_baudMove {index : Byte} {s t : State} (h : execRdch index s = .next t) : BaudMove s t := by
  rw [execRdch_eq] at h
  split at h
  · cases h; exact baudMove_of_unlabelled rfl rfl
  · split at h <;> cases h <;> exact baudMove_of_unlabelled rfl rfl

theorem afterPoll_baudMove (s : State) : BaudMove s (afterPoll s) := by
  have hevents : (afterPoll s).events = if linkUnhealthy s then s.events ++ [.linkUnhealthy] else s.events :=
    healthCheck_events s
  split at hevents
  · exact baudMove_of_label (by decide) hevents (afterPoll_baudValid s)
  · exact baudMove_of_unlabelled hevents (afterPoll_baudValid s)

/-- Every operation but INIT sets Baud-Valid under EV_FRAME_OK or leaves it (R27, R182). -/
theorem exec_baudMove {i : Instr} {s t : State} (hi : i ≠ .init) (h : exec i s = .next t) : BaudMove s t := by
  cases i with
  | rxb b => exact execRxb_baudMove h
  | poll =>
    obtain rfl : afterPoll s = t := Host.Outcome.next.inj h
    exact afterPoll_baudMove s
  | rdch index => exact execRdch_baudMove h
  | init => exact absurd rfl hi

/-- INIT has no label (R191, R201). -/
theorem execInit_events {s t : State} (h : exec .init s = .next t) : t.events = s.events := by
  cases h
  rfl

theorem exec_frameOk_baudValid {i : Instr} {s t : State} (h : exec i s = .next t)
    (hlabel : t.events = s.events ++ [.frameOk]) : t.baudValid = true := by
  by_cases hi : i = .init
  · subst hi
    simp [execInit_events h] at hlabel
  · obtain ⟨-, hvalid⟩ | ⟨hother, -⟩ := exec_baudMove hi h
    · exact hvalid
    · exact absurd hlabel hother

theorem exec_keeps_baudValid {i : Instr} {s t : State} (hi : i ≠ .init) (hs : s.baudValid = true)
    (h : exec i s = .next t) : t.baudValid = true := by
  obtain ⟨-, hvalid⟩ | ⟨-, hkept⟩ := exec_baudMove hi h
  · exact hvalid
  · exact hkept.trans hs

/-- What every operation of a list keeps, a run of the list keeps. -/
theorem runOps_keeps {P : State → Prop} {ops : List Instr} {s t : State}
    (hop : ∀ i ∈ ops, ∀ u v, P u → exec i u = .next v → P v) (hs : P s) (hrun : runOps ops s = .next t) : P t := by
  induction ops generalizing s with
  | nil => cases hrun; exact hs
  | cons i ops ih =>
    obtain ⟨u, hfirst, hrest⟩ := andThen_next.mp hrun
    obtain ⟨hi, hops⟩ := List.forall_mem_cons.mp hop
    exact ih hops (hi s u hs hfirst) hrest

/-- Settles O41: every operation but INIT keeps Baud-Valid at 1, hence so does a run of them, and with Baud-Valid at 1 the check
does not fire. -/
theorem baudValidIsStickyAndGatesTheCheck : Obligations.BaudValidIsStickyAndGatesTheCheck := by
  unfold Obligations.BaudValidIsStickyAndGatesTheCheck
  refine ⟨fun _ _ _ => exec_frameOk_baudValid, fun ops s t hs hinit hrun => ?_⟩
  have hop : ∀ i ∈ ops, ∀ u v : State, u.baudValid = true → exec i u = .next v → v.baudValid = true :=
    fun i hi _ _ => exec_keeps_baudValid (ne_of_mem_of_not_mem hi hinit)
  have hvalid : t.baudValid = true := runOps_keeps (P := fun u => u.baudValid = true) hop hs hrun
  have hquiet := linkUnhealthy_of_baudValid hvalid
  exact ⟨hvalid, afterPoll t, exec_poll t, (afterPoll_retry t).trans hquiet, afterPoll_junk_of_healthy hquiet,
    (afterPoll_baudValid t).trans hvalid⟩

end Sys2Proof.Machine
end

section
/-! PROOFS. The encoding of the operation words (spec/30_encoding.md): a word and its three fields, the decoder on them, and the
rows of the opcode table; then the obligations O1, O2, O3 and O4. -/

namespace Sys2Proof

@[simp] theorem opcField_assembleWord (opc rsv : BitVec 4) (arg : Byte) : opcField (assembleWord opc rsv arg) = opc := by
  rw [opcField, assembleWord, BitVec.extractLsb'_append_eq_of_le (by decide)]
  exact BitVec.extractLsb'_append_eq_left

@[simp] theorem rsvField_assembleWord (opc rsv : BitVec 4) (arg : Byte) : rsvField (assembleWord opc rsv arg) = rsv := by
  rw [rsvField, assembleWord, BitVec.extractLsb'_append_eq_of_le (by decide)]
  exact BitVec.extractLsb'_append_eq_right

@[simp] theorem argField_assembleWord (opc rsv : BitVec 4) (arg : Byte) : argField (assembleWord opc rsv arg) = arg :=
  BitVec.extractLsb'_append_eq_right

/-- A word is its three fields (R61). -/
theorem assembleWord_fields (w : OpWord) : assembleWord (opcField w) (rsvField w) (argField w) = w := by
  have hhigh : opcField w ++ rsvField w = w.extractLsb' 8 8 := BitVec.extractLsb'_append_extractLsb'_eq_extractLsb' rfl
  rw [assembleWord, hhigh]
  exact BitVec.extractLsb'_append_extractLsb' (w := 8) (len := 8) (x := w)

theorem eq_assembleWord_iff {w : OpWord} {opc rsv : BitVec 4} {arg : Byte} :
    w = assembleWord opc rsv arg ↔ opcField w = opc ∧ rsvField w = rsv ∧ argField w = arg := by
  constructor
  · rintro rfl; simp
  · rintro ⟨rfl, rfl, rfl⟩; exact (assembleWord_fields w).symm

/-- Decoding an encoded operation gives it back (R62). -/
@[simp] theorem decode_encode (i : Instr) : decode (encode i) = .ok i := by
  cases i <;> simp [decode, encode]

/-- A word that decodes is the encoding of what it decodes to (R62, R63). -/
theorem encode_of_decode {w : OpWord} {i : Instr} (h : decode w = .ok i) : encode i = w := by
  rw [decode] at h
  split at h
  · cases h
  next hrsv =>
    rw [not_ne_iff] at hrsv
    split at h
    next hopc => cases h; exact (eq_assembleWord_iff.mpr ⟨hopc, hrsv, rfl⟩).symm
    split at h
    next hopc =>
      split at h <;> cases h
      exact (eq_assembleWord_iff.mpr ⟨hopc, hrsv, ‹_›⟩).symm
    split at h
    next hopc => cases h; exact (eq_assembleWord_iff.mpr ⟨hopc, hrsv, rfl⟩).symm
    split at h
    next hopc =>
      split at h <;> cases h
      exact (eq_assembleWord_iff.mpr ⟨hopc, hrsv, ‹_›⟩).symm
    · cases h

theorem decode_eq_ok_iff {w : OpWord} {i : Instr} : decode w = .ok i ↔ encode i = w :=
  ⟨encode_of_decode, fun h => h ▸ decode_encode i⟩

/-- A word is rejected exactly when it encodes no operation (R63). -/
theorem decode_error_iff {w : OpWord} : (∃ why, decode w = .error why) ↔ ∀ i, encode i ≠ w := by
  simp only [ne_eq, ← decode_eq_ok_iff]
  cases decode w <;> simp

/-- Settles O1: `decode_encode` and `encode_of_decode`. -/
theorem decodeAndEncodeAgree : Obligations.DecodeAndEncodeAgree :=
  ⟨decode_encode, fun _ _ => encode_of_decode⟩

/-- The fields of an operation's word (R62). -/
@[simp] theorem opcField_encode (i : Instr) :
    opcField (encode i) = match i with
      | .rxb _ => 1#4
      | .poll => 2#4
      | .rdch _ => 3#4
      | .init => 4#4 := by
  cases i <;> exact opcField_assembleWord _ _ _

@[simp] theorem rsvField_encode (i : Instr) : rsvField (encode i) = 0#4 := by
  cases i <;> exact rsvField_assembleWord _ _ _

@[simp] theorem argField_encode (i : Instr) :
    argField (encode i) = match i with
      | .rxb b => b
      | .poll => 0#8
      | .rdch index => index
      | .init => 0#8 := by
  cases i <;> exact argField_assembleWord _ _ _

/-- Conjunction acts on the fields apart. -/
theorem and_assembleWord (opc rsv opc' rsv' : BitVec 4) (arg arg' : Byte) :
    assembleWord opc rsv arg &&& assembleWord opc' rsv' arg' =
      assembleWord (opc &&& opc') (rsv &&& rsv') (arg &&& arg') :=
  BitVec.and_append.trans (congrArg (· ++ (arg &&& arg')) BitVec.and_append)

/-- A row whose mask covers `opc`, `rsv` and the bits `m` of `arg`, as all four rows do, matches field by field (R62). -/
theorem matchesWord_iff (mnemonic : String) (opc : BitVec 4) (m : Byte) (w : OpWord) :
    (OpcodeRow.mk mnemonic (assembleWord opc 0#4 0#8) (assembleWord 15#4 15#4 m)).matchesWord w = true ↔
      opcField w = opc ∧ rsvField w = 0#4 ∧ argField w &&& m = 0#8 := by
  have hand := and_assembleWord (opcField w) (rsvField w) 15#4 15#4 (argField w) m
  rw [assembleWord_fields, show (15#4) = BitVec.allOnes 4 from rfl, BitVec.and_allOnes, BitVec.and_allOnes] at hand
  rw [OpcodeRow.matchesWord, decide_eq_true_eq, show (15#4) = BitVec.allOnes 4 from rfl, hand, eq_assembleWord_iff]
  simp

/-- The table is the rows of the four operations. -/
theorem mem_opcodeTable {r : OpcodeRow} : r ∈ opcodeTable ↔ ∃ i : Instr, r = i.row := by
  constructor
  · intro h
    simp only [opcodeTable, List.mem_cons, List.not_mem_nil, or_false] at h
    obtain rfl | rfl | rfl | rfl := h
    exacts [⟨.rxb 0#8, rfl⟩, ⟨.poll, rfl⟩, ⟨.rdch 0#8, rfl⟩, ⟨.init, rfl⟩]
  · rintro ⟨i, rfl⟩
    cases i <;> simp [Instr.row, opcodeTable]

/-- The row of an operation matches the words that have its opcode, `rsv` zero and, where the operation has no operand, `arg`
zero (R62). -/
theorem row_matchesWord_iff (i : Instr) (w : OpWord) :
    i.row.matchesWord w = true ↔ opcField w = opcField (encode i) ∧ rsvField w = 0#4 ∧
      (i = .poll ∨ i = .init → argField w = 0#8) := by
  have hones : argField w &&& 255#8 = argField w := BitVec.and_allOnes
  rw [opcField_encode]
  cases i with
  | rxb b => exact (matchesWord_iff "RXB" 1#4 0#8 w).trans (by simp)
  | poll => exact (matchesWord_iff "POLL" 2#4 255#8 w).trans (by simp [hones])
  | rdch index => exact (matchesWord_iff "RDCH" 3#4 0#8 w).trans (by simp)
  | init => exact (matchesWord_iff "INIT" 4#4 255#8 w).trans (by simp [hones])

/-- The rows an operation's word matches are its own alone: they differ in the opcode. -/
theorem row_matchesWord_encode (j i : Instr) : j.row.matchesWord (encode i) = true ↔ j.row = i.row := by
  rw [row_matchesWord_iff]
  cases i <;> cases j <;> simp [Instr.row]

/-- A word that matches an operation's row encodes an operation. -/
theorem encode_of_row_matchesWord {j : Instr} {w : OpWord} (h : j.row.matchesWord w = true) : ∃ i, encode i = w := by
  obtain ⟨hopc, hrsv, harg⟩ := (row_matchesWord_iff j w).mp h
  rw [opcField_encode] at hopc
  cases j with
  | rxb b => exact ⟨.rxb (argField w), (eq_assembleWord_iff.mpr ⟨hopc, hrsv, rfl⟩).symm⟩
  | poll => exact ⟨.poll, (eq_assembleWord_iff.mpr ⟨hopc, hrsv, harg (.inl rfl)⟩).symm⟩
  | rdch index => exact ⟨.rdch (argField w), (eq_assembleWord_iff.mpr ⟨hopc, hrsv, rfl⟩).symm⟩
  | init => exact ⟨.init, (eq_assembleWord_iff.mpr ⟨hopc, hrsv, harg (.inr rfl)⟩).symm⟩

/-- Settles O2: a word that decodes is an operation's, which matches that operation's row alone; a word that is no operation's
matches no row. -/
theorem decodeFollowsTheOpcodeTable : Obligations.DecodeFollowsTheOpcodeTable := by
  unfold Obligations.DecodeFollowsTheOpcodeTable
  refine fun w => ⟨fun i hdecode r hr => ?_, decode_error_iff.trans ⟨fun hnone r hr => ?_, fun hrows i hi => ?_⟩⟩
  · obtain ⟨j, rfl⟩ := mem_opcodeTable.mp hr
    rw [← encode_of_decode hdecode]
    exact row_matchesWord_encode j i
  · obtain ⟨j, rfl⟩ := mem_opcodeTable.mp hr
    refine Bool.eq_false_iff.mpr fun hmatch => ?_
    obtain ⟨i, hi⟩ := encode_of_row_matchesWord hmatch
    exact hnone i hi
  · have hmatch : i.row.matchesWord w = true := hi ▸ (row_matchesWord_encode i i).mpr rfl
    exact Bool.false_ne_true ((hrows _ (mem_opcodeTable.mpr ⟨i, rfl⟩)).symm.trans hmatch)

/-- Settles O3: the five words are the encodings of the five operations. -/
theorem writtenOutWordsDecode : Obligations.WrittenOutWordsDecode :=
  ⟨decode_encode (.rxb 0x3E#8), decode_encode .poll, decode_encode (.rdch 15#8), decode_encode (.rdch 255#8),
    decode_encode .init⟩

/-- A word is an operation of the HOST exactly when it encodes one. -/
theorem decodeHost_eq_ok_iff {w : OpWord} {i : Instr} : decodeHost w = .ok i ↔ encode i = w ∧ i.agent = .host :=
  Machine.decodeHost_ok.trans (and_congr_left fun _ => decode_eq_ok_iff)

end Sys2Proof

namespace Sys2Proof.Machine

theorem nextCycle_of_input {s : State} {c : Cycle} {rest : List Cycle} (h : s.input = c :: rest) : nextCycle s = c := by
  rw [nextCycle, h]

/-- A word on the HOST port that is no operation there stops the whole step (R63). -/
theorem step_reservedWord {s : State} {w : OpWord} {why : Reject} {rx : Option Byte} {ok : Bool} {rest : List Cycle}
    (hinput : s.input = ⟨false, some w, rx, ok⟩ :: rest) (hdecode : decodeHost w = .error why) :
    step s = .refused (.reservedWord why) := by
  simp [step, nextCycle_of_input hinput, runCycle, runHost, hdecode, andThen]

/-- Settles O4: no HOST operation's word has one of the reserved forms, and a word with none of them is made of the fields of
POLL, RDCH or INIT. -/
theorem reservedHostWordIsRefused : Obligations.ReservedHostWordIsRefused := by
  unfold Obligations.ReservedHostWordIsRefused
  intro s w reserved
  constructor
  · intro hreserved rx ok rest hinput
    cases hdecode : decodeHost w with
    | error why => exact ⟨why, step_reservedWord hinput hdecode⟩
    | ok i =>
      obtain ⟨rfl, hhost⟩ := decodeHost_eq_ok_iff.mp hdecode
      cases i <;> simp [reserved, Instr.agent] at hreserved hhost
  · intro hlegal
    simp only [reserved, not_or, not_and, not_not] at hlegal
    obtain ⟨hzero, hhigh, hrsv, harg, hrxb⟩ := hlegal
    have hopc : opcField w = 2#4 ∨ opcField w = 3#4 ∨ opcField w = 4#4 := by bv_omega
    obtain hopc | hopc | hopc := hopc
    · exact ⟨.poll, rfl, decodeHost_eq_ok_iff.mpr
        ⟨(eq_assembleWord_iff.mpr ⟨hopc, hrsv, harg (.inl hopc)⟩).symm, rfl⟩⟩
    · exact ⟨.rdch (argField w), rfl, decodeHost_eq_ok_iff.mpr
        ⟨(eq_assembleWord_iff.mpr ⟨hopc, hrsv, rfl⟩).symm, rfl⟩⟩
    · exact ⟨.init, rfl, decodeHost_eq_ok_iff.mpr
        ⟨(eq_assembleWord_iff.mpr ⟨hopc, hrsv, harg (.inr hopc)⟩).symm, rfl⟩⟩

end Sys2Proof.Machine
end

section
/-! PROOFS. RXB as a whole (spec/41_frame_assembler.md): its outcomes as one relation, in both directions, and what every
outcome shares; then the obligations O11, O13, O14, O15, O17, O20, O21, O22 and O23. -/

namespace Sys2Proof.Machine

/-- A captured byte that meets no check: inside the buffer, a length byte in range, a type byte of RC data (R103 to R105). -/
structure Captures (b : Byte) (s : State) : Prop where
  phase : s.phase = .capturing
  inside : s.pos.toNat < 70
  lengthOk : s.pos.toNat = 2 → 7 ≤ b.toNat ∧ b.toNat ≤ 70
  typeOk : s.pos.toNat = 4 → b = 0x31#8

/-- The state such a byte leaves before the position advances: the byte stored, the length byte taken up (R103, R104). -/
def captured (b : Byte) (s : State) : State := { afterStore b s with explen := explenAfter b s }

/-- The seven outcomes of RXB (R108), each with its condition, its event and the state it leaves. -/
inductive RxbOutcome (b : Byte) (s : State) : Event → State → Prop where
  | start (hidle : s.phase = .idle) (hb : b = 0x3E#8) :
      RxbOutcome b s .start (emit .start (clearReady
        { s with phase := .capturing, pos := 1#7, explen := 7#7, buf := s.buf.write 0 b }))
  | junk (hidle : s.phase = .idle) (hb : b ≠ 0x3E#8) : RxbOutcome b s .junk (emit .junk (addJunk 1 s))
  | lenAbort (hcap : s.phase = .capturing) (hpos : s.pos.toNat = 2) (hb : 70 < b.toNat ∨ b.toNat < 7) :
      RxbOutcome b s .lenAbort (emit .lenAbort { afterStore b s with phase := .idle })
  | typeFilter (hcap : s.phase = .capturing) (hpos : s.pos.toNat = 4) (hb : b ≠ 0x31#8) :
      RxbOutcome b s .typeFilter (emit .typeFilter { afterStore b s with phase := .idle })
  | store (hcap : Captures b s) (hmore : s.pos + 1#7 ≠ explenAfter b s) :
      RxbOutcome b s .store (emit .store { captured b s with pos := s.pos + 1#7 })
  | frameOk (hcap : Captures b s) (hend : s.pos + 1#7 = explenAfter b s)
      (hcrc : residue (afterStore b s) (explenAfter b s).toNat = some 0#16) :
      RxbOutcome b s .frameOk (emit .frameOk (markValid (endCandidate (captured b s))))
  | crcFail (hcap : Captures b s) (hend : s.pos + 1#7 = explenAfter b s) (hmax : (explenAfter b s).toNat ≤ 70)
      (hcrc : residue (afterStore b s) (explenAfter b s).toNat ≠ some 0#16) :
      RxbOutcome b s .crcFail (emit .crcFail (addJunk (explenAfter b s).toNat (endCandidate (captured b s))))

/-- Where the next position is not the expected length, `advance` only moves the position. -/
theorem advance_store {s : State} (hmore : s.pos + 1#7 ≠ s.explen) :
    advance s = .next (emit .store { s with pos := s.pos + 1#7 }) := by
  simp [advance, hmore]

theorem Captures.run {b : Byte} {s : State} (h : Captures b s) : execRxb b s = advance (captured b s) :=
  execRxb_advance h.phase h.inside h.lengthOk h.typeOk

/-- Each outcome is what RXB does. -/
theorem RxbOutcome.run {b : Byte} {s t : State} {e : Event} (h : RxbOutcome b s e t) : execRxb b s = .next t := by
  cases h with
  | start hidle hb => subst hb; exact execRxb_start hidle
  | junk hidle hb => exact execRxb_junk hidle hb
  | lenAbort hcap hpos hb => exact execRxb_lenAbort hcap hpos hb
  | typeFilter hcap hpos hb => exact execRxb_typeFilter hcap hpos hb
  | store hcap hmore => exact hcap.run.trans (advance_store hmore)
  | frameOk hcap hend hcrc => exact hcap.run.trans (advance_complete (s := captured b s) hend hcrc)
  | crcFail hcap hend hmax hcrc =>
    have hres := residue_eq_crc16 (s := afterStore b s) hmax
    rw [hcap.run, advance_complete (s := captured b s) hend hres, settleCandidate, if_neg (by simpa [hres] using hcrc)]
    rfl

/-- RXB does nothing else. -/
theorem rxbOutcome_of_next {b : Byte} {s t : State} (h : execRxb b s = .next t) : ∃ e, RxbOutcome b s e t := by
  obtain ⟨hidle, hb, rfl⟩ | ⟨hidle, hb, rfl⟩ | ⟨hcap, hpos, houtcome⟩ := execRxb_cases h
  · exact ⟨_, .start hidle hb⟩
  · exact ⟨_, .junk hidle hb⟩
  obtain ⟨hat, hb, rfl⟩ | ⟨hat, hb, rfl⟩ | ⟨hlen, htype, hadvance⟩ := houtcome
  · exact ⟨_, .lenAbort hcap hat hb⟩
  · exact ⟨_, .typeFilter hcap hat hb⟩
  obtain ⟨hmore, rfl⟩ | ⟨hend, hmax, ⟨hcrc, rfl⟩ | ⟨hcrc, rfl⟩⟩ := advance_cases hadvance
  · exact ⟨_, .store ⟨hcap, hpos, hlen, htype⟩ hmore⟩
  · exact ⟨_, .frameOk ⟨hcap, hpos, hlen, htype⟩ hend hcrc⟩
  · exact ⟨_, .crcFail ⟨hcap, hpos, hlen, htype⟩ hend hmax hcrc⟩

/-! What the outcomes share -/

section
variable {b : Byte} {s t : State} {e : Event}

theorem RxbOutcome.events_eq (h : RxbOutcome b s e t) : t.events = s.events ++ [e] := by
  cases h <;> rfl

theorem RxbOutcome.samePorts (h : RxbOutcome b s e t) : SamePorts s t := by
  cases h <;> exact ⟨rfl, rfl, rfl, rfl, rfl⟩

theorem RxbOutcome.draws_eq (h : RxbOutcome b s e t) : t.draws = s.draws := by
  cases h <;> rfl

/-- In IDLE an outcome writes at most index 0. -/
theorem RxbOutcome.sameBytesBut_zero (h : RxbOutcome b s e t) (hidle : s.phase = .idle) : SameBytesBut 0 s t := by
  cases h with
  | start => exact fun k hk => byteAt_write_ne s b hk
  | junk => exact fun _ _ => rfl
  | lenAbort hcap | typeFilter hcap => cases hidle.symm.trans hcap
  | store hcap | frameOk hcap | crcFail hcap => cases hidle.symm.trans hcap.phase

/-- In CAPTURING an outcome stores the byte at the position. -/
theorem RxbOutcome.buf_eq (h : RxbOutcome b s e t) (hcap : s.phase = .capturing) : t.buf = s.buf.write s.pos.toNat b := by
  cases h with
  | start hidle | junk hidle => cases hcap.symm.trans hidle
  | _ => rfl

theorem RxbOutcome.byteAt_eq (h : RxbOutcome b s e t) (hcap : s.phase = .capturing) (k : Nat) :
    byteAt t k = if k = s.pos.toNat then b else byteAt s k :=
  (byteAt_congr (t := afterStore b s) (h.buf_eq hcap) h.draws_eq k).trans (byteAt_afterStore b s k)

theorem RxbOutcome.byteAt_pos (h : RxbOutcome b s e t) (hcap : s.phase = .capturing) : byteAt t s.pos.toNat = b :=
  (h.byteAt_eq hcap _).trans (if_pos rfl)

theorem RxbOutcome.sameBytesBut (h : RxbOutcome b s e t) (hcap : s.phase = .capturing) :
    SameBytesBut s.pos.toNat s t :=
  fun k hk => (h.byteAt_eq hcap k).trans (if_neg hk)

/-- What each outcome adds to the junk counter (R102, R107, R112). -/
theorem RxbOutcome.junk_eq (h : RxbOutcome b s e t) :
    t.junk = match e with
      | .junk => s.junk + 1#32
      | .crcFail => s.junk + BitVec.ofNat 32 t.explen.toNat
      | _ => s.junk := by
  cases h <;> rfl

end

/-! Outcomes in a state that meets the invariant -/

theorem explenAfter_of_ne {b : Byte} {s : State} (h : s.pos.toNat ≠ 2) : explenAfter b s = s.explen := if_neg h

theorem explenAfter_of_eq {b : Byte} {s : State} (h : s.pos.toNat = 2) : explenAfter b s = lengthOf b := if_pos h

/-- A length in range keeps its value in seven bits (R104). -/
theorem lengthOf_toNat {b : Byte} (h : b.toNat ≤ 70) : (lengthOf b).toNat = b.toNat := by
  rw [lengthOf, BitVec.toNat_setWidth, Nat.mod_eq_of_lt (by omega)]

/-- A candidate ends at offset 6 or above, by the expected length its header gave it. -/
theorem Captures.ends_iff {b : Byte} {s : State} (hinv : Inv s) (h : Captures b s) :
    s.pos + 1#7 = explenAfter b s ↔ s.pos.toNat + 1 = s.explen.toNat ∧ 6 ≤ s.pos.toNat := by
  obtain ⟨hmin, hmax⟩ := hinv.explenRange
  by_cases hpos : s.pos.toNat = 2
  · obtain ⟨hlow, hhigh⟩ := h.lengthOk hpos
    have hlength := lengthOf_toNat hhigh
    rw [explenAfter_of_eq hpos]
    refine iff_of_false (fun heq => ?_) (by omega)
    rw [← heq] at hlength
    bv_omega
  · have hinside := h.inside
    rw [explenAfter_of_ne hpos]
    bv_omega

/-- The residue a completion decides by is the CRC of the candidate's bytes with the last one (R144). -/
theorem Captures.residue_eq {b : Byte} {s : State} (hinv : Inv s) (h : Captures b s)
    (hend : s.pos + 1#7 = explenAfter b s) :
    residue (afterStore b s) (explenAfter b s).toNat = some (crc16 ((List.range s.pos.toNat).map (byteAt s) ++ [b])) := by
  obtain ⟨hlast, hpos⟩ := (h.ends_iff hinv).mp hend
  obtain ⟨-, hmax⟩ := hinv.explenRange
  rw [explenAfter_of_ne (by omega), residue_eq_crc16 hmax, ← hlast, candidateBytes_afterStore]

/-- In a state that meets the invariant every byte has an outcome (R108, R111). -/
theorem exists_rxbOutcome {s : State} (hinv : Inv s) (b : Byte) : ∃ e t, RxbOutcome b s e t := by
  cases hphase : s.phase with
  | idle =>
    by_cases hb : b = 0x3E#8
    · exact ⟨_, _, .start hphase hb⟩
    · exact ⟨_, _, .junk hphase hb⟩
  | capturing =>
    obtain ⟨-, hlast, -⟩ := hinv.capturing hphase
    obtain ⟨hmin, hmax⟩ := hinv.explenRange
    by_cases hlen : s.pos.toNat = 2 ∧ (70 < b.toNat ∨ b.toNat < 7)
    · exact ⟨_, _, .lenAbort hphase hlen.1 hlen.2⟩
    by_cases htype : s.pos.toNat = 4 ∧ b ≠ 0x31#8
    · exact ⟨_, _, .typeFilter hphase htype.1 htype.2⟩
    have hcap : Captures b s := ⟨hphase, by omega, by omega, fun hat => by_contra fun hb => htype ⟨hat, hb⟩⟩
    by_cases hend : s.pos + 1#7 = explenAfter b s
    · have hpos := ((hcap.ends_iff hinv).mp hend).2
      by_cases hcrc : residue (afterStore b s) (explenAfter b s).toNat = some 0#16
      · exact ⟨_, _, .frameOk hcap hend hcrc⟩
      · exact ⟨_, _, .crcFail hcap hend (by rwa [explenAfter_of_ne (by omega)]) hcrc⟩
    · exact ⟨_, _, .store hcap hend⟩

/-! The obligations -/

/-- Settles O11: the outcome of the start marker in IDLE. -/
theorem startMarkerEntersCapturing : Obligations.StartMarkerEntersCapturing := by
  unfold Obligations.StartMarkerEntersCapturing
  intro s hidle
  have hout := RxbOutcome.start hidle (b := 0x3E#8) rfl
  exact ⟨_, hout.run, rfl, rfl, rfl, byteAt_write_same s 0 _, hout.sameBytesBut_zero hidle, rfl, rfl, rfl,
    hout.samePorts, rfl, rfl⟩

/-- Settles O13: such a byte meets no check, and the invariant keeps the position inside the buffer. -/
theorem capturedByteIsStored : Obligations.CapturedByteIsStored := by
  unfold Obligations.CapturedByteIsStored
  intro b s hinv hphase hlen htype hmore
  obtain ⟨-, hlast, -⟩ := hinv.capturing hphase
  obtain ⟨hmin, hmax⟩ := hinv.explenRange
  have hcap : Captures b s := ⟨hphase, by omega, fun hat => absurd hat hlen, htype⟩
  have hout := RxbOutcome.store hcap fun hend => hmore ((hcap.ends_iff hinv).mp hend).1
  have hpos : (s.pos + 1#7).toNat = s.pos.toNat + 1 := by bv_omega
  exact ⟨_, hout.run, hphase, hpos, explenAfter_of_ne hlen, hout.byteAt_pos hphase, hout.sameBytesBut hphase, rfl, rfl,
    rfl, hout.samePorts, rfl, rfl⟩

/-- Settles O14: a length byte in range meets no check, and as a length of 7 or more it does not end the candidate. -/
theorem lengthByteInRangeIsTaken : Obligations.LengthByteInRangeIsTaken := by
  unfold Obligations.LengthByteInRangeIsTaken
  intro b s hphase hpos hlow hhigh
  have hat : s.pos.toNat = 2 := by simp [hpos]
  have hcap : Captures b s := ⟨hphase, by omega, fun _ => ⟨hlow, hhigh⟩, by omega⟩
  have hlength := lengthOf_toNat hhigh
  have hmore : s.pos + 1#7 ≠ explenAfter b s := by
    rw [explenAfter_of_eq hat, hpos]
    intro hend
    rw [← hend] at hlength
    bv_omega
  have hout := RxbOutcome.store hcap hmore
  have hnext : s.pos + 1#7 = 3#7 := by rw [hpos]; rfl
  have hexplen : (explenAfter b s).toNat = b.toNat := by rw [explenAfter_of_eq hat, hlength]
  exact ⟨_, hout.run, hphase, hnext, hexplen, hat ▸ hout.byteAt_pos hphase, hat ▸ hout.sameBytesBut hphase, rfl, rfl, rfl,
    hout.samePorts, rfl, rfl⟩

/-- Settles O15: the outcome of a length byte out of range. -/
theorem lengthByteOutOfRangeAborts : Obligations.LengthByteOutOfRangeAborts := by
  unfold Obligations.LengthByteOutOfRangeAborts
  intro b s hphase hpos hb
  have hat : s.pos.toNat = 2 := by simp [hpos]
  have hout := RxbOutcome.lenAbort hphase hat hb
  exact ⟨_, hout.run, rfl, rfl, rfl, hat ▸ hout.sameBytesBut hphase, rfl, rfl, hout.samePorts, rfl, rfl⟩

/-- Settles O17: both aborts store the byte first and leave the position. -/
theorem abortingByteIsStored : Obligations.AbortingByteIsStored := by
  unfold Obligations.AbortingByteIsStored
  rintro b s t hphase (⟨hpos, hb⟩ | ⟨hpos, hb⟩) hrun
  · have hout := RxbOutcome.lenAbort hphase (by simp [hpos]) hb
    cases hout.run.symm.trans hrun
    exact ⟨hout.byteAt_pos hphase, rfl, rfl⟩
  · have hout := RxbOutcome.typeFilter hphase (by simp [hpos]) hb
    cases hout.run.symm.trans hrun
    exact ⟨hout.byteAt_pos hphase, rfl, rfl⟩

/-- The CRC alone decides whether a candidate that has ended is ready (R106, R107). -/
theorem settleCandidate_ready {crc : CrcReg} {s : State} (hs : s.ready = false) :
    (settleCandidate crc s).ready = true ↔ crc = 0#16 := by
  unfold settleCandidate
  split <;> simp_all

/-- Settles O20: the bytes of the completed candidate are those the completion takes the CRC of, and the CRC decides. -/
theorem candidateIsValidExactlyWhenResidueIsZero : Obligations.CandidateIsValidExactlyWhenResidueIsZero := by
  unfold Obligations.CandidateIsValidExactlyWhenResidueIsZero
  intro b s t hinv hphase hend hrun
  obtain ⟨e, hout⟩ := rxbOutcome_of_next hrun
  obtain ⟨-, -, -, hready⟩ := hinv.capturing hphase
  have hbytes : byteAt t = byteAt (afterStore b s) :=
    funext (byteAt_congr (hout.buf_eq hphase) hout.draws_eq)
  cases (execRxb_complete hinv hphase hend).symm.trans hrun
  rw [hbytes, ← hend, candidateBytes_afterStore]
  exact settleCandidate_ready hready

/-- Settles O21: an outcome exists, and the condition of each one shuts out the other six. -/
theorem eachByteHasExactlyOneOutcome : Obligations.EachByteHasExactlyOneOutcome := by
  unfold Obligations.EachByteHasExactlyOneOutcome
  intro b s hinv ends passes aborts filtered
  obtain ⟨e, t, hout⟩ := exists_rxbOutcome hinv b
  refine ⟨t, e, hout.run, hout.events_eq, ?_⟩
  cases hout with
  | start hidle hb => simp [ends, aborts, filtered, hidle, hb]
  | junk hidle hb => simp [ends, aborts, filtered, hidle, hb]
  | lenAbort hcap hpos hb => simp [ends, aborts, filtered, hcap, hpos, hb]
  | typeFilter hcap hpos hb => simp [ends, aborts, filtered, hcap, hpos, hb]
  | store hcap hmore =>
    have hends : ¬ends := fun ⟨_, h⟩ => hmore ((hcap.ends_iff hinv).mpr h)
    have haborts : ¬aborts := fun ⟨_, hpos, hb⟩ => by have := hcap.lengthOk hpos; omega
    have hfiltered : ¬filtered := fun ⟨_, hpos, hb⟩ => hb (hcap.typeOk hpos)
    simp [hends, haborts, hfiltered, hcap.phase]
  | frameOk hcap hend hcrc =>
    obtain ⟨hlast, hpos⟩ := (hcap.ends_iff hinv).mp hend
    have hends : ends := ⟨hcap.phase, hlast, hpos⟩
    have hlen : s.pos.toNat ≠ 2 := by omega
    have htype : s.pos.toNat ≠ 4 := by omega
    have hpasses : passes := by simpa [hcap.residue_eq hinv hend] using hcrc
    simp [hends, hpasses, aborts, filtered, hlen, htype, hcap.phase]
  | crcFail hcap hend _ hcrc =>
    obtain ⟨hlast, hpos⟩ := (hcap.ends_iff hinv).mp hend
    have hends : ends := ⟨hcap.phase, hlast, hpos⟩
    have hlen : s.pos.toNat ≠ 2 := by omega
    have htype : s.pos.toNat ≠ 4 := by omega
    have hpasses : ¬passes := by simpa [hcap.residue_eq hinv hend] using hcrc
    simp [hends, hpasses, aborts, filtered, hlen, htype, hcap.phase]

/-- Settles O22: every outcome leaves the ports and the draw, and writes at most index 0 in IDLE, the position in CAPTURING. -/
theorem receivedByteFrame : Obligations.ReceivedByteFrame := by
  unfold Obligations.ReceivedByteFrame
  intro b s t hrun
  obtain ⟨e, hout⟩ := rxbOutcome_of_next hrun
  refine ⟨hout.samePorts, hout.draws_eq, fun k hzero hpos => ?_⟩
  cases hphase : s.phase with
  | idle =>
    by_cases hb : b = 0x3E#8
    · exact hout.sameBytesBut_zero hphase k (hzero hphase hb)
    · cases (RxbOutcome.junk hphase hb).run.symm.trans hrun
      rfl
  | capturing => exact hout.sameBytesBut hphase k (hpos hphase)

/-- Settles O23: the outcome's event decides what RXB adds; POLL's check clears the counter; RDCH leaves it; INIT clears it. -/
theorem junkCounterCountsOnlyDiscardedBytes : Obligations.JunkCounterCountsOnlyDiscardedBytes := by
  unfold Obligations.JunkCounterCountsOnlyDiscardedBytes
  intro i s t hrun
  cases i with
  | rxb b =>
    obtain ⟨e, hout⟩ := rxbOutcome_of_next hrun
    have hjunk := hout.junk_eq
    simp only [hout.events_eq, List.append_cancel_left_eq, List.cons.injEq, and_true]
    refine ⟨?_, ?_, fun hnot hnot' => ?_⟩
    · rintro rfl; exact hjunk
    · rintro rfl; exact hjunk
    · rw [hjunk]; split <;> trivial
  | poll =>
    cases hrun
    have hcheck := healthCheck_junk s
    simp only [linkUnhealthy_iff] at hcheck
    exact hcheck
  | rdch index =>
    rw [exec_rdch, execRdch_eq] at hrun
    split at hrun
    · cases hrun; rfl
    · split at hrun <;> cases hrun <;> rfl
  | init => cases hrun; rfl

end Sys2Proof.Machine
end

section
/-! PROOFS. The HOST's operations (spec/43_channel_decoder.md to 45_driver_facade.md): the state each leaves, written out once,
and runs of them; then the obligations O32, O34, O36, O37, O38, O39, O42, O43, O44, O45 and O52. -/

namespace Sys2Proof.Machine

/-! RDCH -/

/-- What RDCH answers (R161 to R165). -/
def rdchResult (index : Byte) (s : State) : OpWord :=
  if index.toNat < 16 ∧ s.ready = true then resultWord (toMicroseconds (channelRaw s index)) else 0#16

/-- The state RDCH leaves: an in-range read consumes the frame (R161, R163). -/
def afterRdch (index : Byte) (s : State) : State :=
  answer (rdchResult index s) { s with ready := s.ready && decide (16 ≤ index.toNat) }

/-- A read out of range, or with no frame ready, only answers 0 (R161, R162). -/
theorem afterRdch_of_not_consuming {index : Byte} {s : State} (h : ¬(index.toNat < 16 ∧ s.ready = true)) :
    afterRdch index s = answer 0#16 s := by
  have hkept : (s.ready && decide (16 ≤ index.toNat)) = s.ready := by
    cases hready : s.ready with
    | false => rfl
    | true => simpa [hready] using h
  rw [afterRdch, rdchResult, if_neg h, hkept]

/-- RDCH always answers a next state. -/
theorem execRdch_next (index : Byte) (s : State) : execRdch index s = .next (afterRdch index s) := by
  by_cases hread : index.toNat < 16 ∧ s.ready = true
  · obtain ⟨hindex, hready⟩ := hread
    rw [execRdch_consume hindex hready, afterRdch, rdchResult, if_pos ⟨hindex, hready⟩, clearReady,
      decide_eq_false (Nat.not_le.mpr hindex), Bool.and_false]
  · rw [afterRdch_of_not_consuming hread]
    by_cases hindex : index.toNat < 16
    · exact execRdch_notReady (Bool.eq_false_iff.mpr fun hready => hread ⟨hindex, hready⟩)
    · rw [execRdch_eq, if_pos (Nat.not_lt.mp hindex)]

theorem exec_rdch_next {index : Byte} {s t : State} : exec (.rdch index) s = .next t ↔ t = afterRdch index s := by
  rw [exec_rdch, execRdch_next, Host.Outcome.next.injEq, eq_comm]

theorem rdchResult_of_notReady {index : Byte} {s : State} (h : s.ready = false) : rdchResult index s = 0#16 :=
  if_neg (by simp [h])

/-- Two bytes make a number below 2^16 (R164). -/
theorem channelRaw_lt (s : State) (index : Byte) : channelRaw s index < 65536 := by
  have hlow := (byteAt s (6 + 2 * index.toNat)).isLt
  have hhigh := (byteAt s (7 + 2 * index.toNat)).isLt
  rw [channelRaw]
  omega

/-- The conversion of a channel fits the result port: no wrap at 16 bits (R165, R166). -/
theorem resultWord_channel_toNat (s : State) (index : Byte) :
    (resultWord (toMicroseconds (channelRaw s index))).toNat = (channelRaw s index + 4) / 8 := by
  have hraw := channelRaw_lt s index
  simp only [resultWord, toMicroseconds, Config.roundAdd_eq, Config.ticksPerUs_eq, BitVec.toNat_ofNat]
  omega

theorem rdchResult_toNat_le (index : Byte) (s : State) : (rdchResult index s).toNat ≤ 8192 := by
  unfold rdchResult
  split
  · have hraw := channelRaw_lt s index
    rw [resultWord_channel_toNat]
    omega
  · simp

/-- Settles O32: the branch of RDCH for an index out of range. -/
theorem outOfRangeReadReturnsZero : Obligations.OutOfRangeReadReturnsZero := by
  unfold Obligations.OutOfRangeReadReturnsZero
  intro index s hindex
  rw [exec_rdch, execRdch_eq, if_pos hindex]
  rfl

/-- Settles O34: the consuming read, `execRdch_consume`, with the conversion written out. -/
theorem consumingReadReturnsTheChannel : Obligations.ConsumingReadReturnsTheChannel := by
  unfold Obligations.ConsumingReadReturnsTheChannel
  intro index s hindex hready
  exact (exec_rdch index s).trans (execRdch_consume hindex hready)

/-- Settles O36: the result is 0 or the conversion of a number below 2^16, which is a division by 8. -/
theorem readResultRange : Obligations.ReadResultRange := by
  unfold Obligations.ReadResultRange
  intro index s t hrun
  refine ⟨?_, fun hindex hready k => ?_⟩
  · rw [exec_rdch_next.mp hrun]
    exact rdchResult_toNat_le index s
  · have hresult : t.hostResult.toNat = (channelRaw s index + 4) / 8 := by
      rw [hostResult_of_consume hindex hready hrun, resultWord_channel_toNat]
    rw [hresult, channelRaw]
    omega

/-! POLL and INIT -/

/-- The health check touches the counter and the label alone (R180, R183). -/
theorem healthCheck_eq (s : State) : healthCheck s = { s with
    junk := if linkUnhealthy s then 0#32 else s.junk
    events := if linkUnhealthy s then s.events ++ [.linkUnhealthy] else s.events } := by
  unfold healthCheck
  split <;> rfl

theorem afterPoll_eq (s : State) : afterPoll s = answer (pollWord (linkUnhealthy s) s.ready) { s with
    junk := if linkUnhealthy s then 0#32 else s.junk
    events := if linkUnhealthy s then s.events ++ [.linkUnhealthy] else s.events } := by
  rw [afterPoll, healthCheck_eq]

@[simp] theorem afterPoll_ready (s : State) : (afterPoll s).ready = s.ready := by rw [afterPoll_eq]; rfl

@[simp] theorem afterPoll_transportOpenOk (s : State) : (afterPoll s).transportOpenOk = s.transportOpenOk := by
  rw [afterPoll_eq]; rfl

@[simp] theorem byteAt_afterPoll (s : State) (k : Nat) : byteAt (afterPoll s) k = byteAt s k := by rw [afterPoll_eq]; rfl

@[simp] theorem afterPoll_hostResult (s : State) : (afterPoll s).hostResult = pollWord (linkUnhealthy s) s.ready := rfl

/-- The check reads Baud-Valid and the counter alone. -/
theorem linkUnhealthy_congr {s t : State} (hvalid : s.baudValid = t.baudValid) (hjunk : s.junk = t.junk) :
    linkUnhealthy s = linkUnhealthy t := by
  rw [linkUnhealthy, linkUnhealthy, hvalid, hjunk]

/-- After a POLL the check does not fire: either it did, and the counter is 0, or it did not (R184). -/
@[simp] theorem linkUnhealthy_afterPoll (s : State) : linkUnhealthy (afterPoll s) = false := by
  cases h : linkUnhealthy s with
  | true => exact linkUnhealthy_of_le (by rw [afterPoll_junk_of_unhealthy h]; decide)
  | false => rw [linkUnhealthy_congr (afterPoll_baudValid s) (afterPoll_junk_of_healthy h), h]

/-- Settles O38: the check fires, so the retry bit is 1 and the counter returns to 0. -/
theorem pollFiresAndResetsTheJunkCounter : Obligations.PollFiresAndResetsTheJunkCounter := by
  unfold Obligations.PollFiresAndResetsTheJunkCounter
  intro s hvalid hjunk
  have hfires : linkUnhealthy s = true := (linkUnhealthy_iff s).mpr ⟨hvalid, hjunk⟩
  have hword : pollWord true s.ready = if s.ready then 3#16 else 2#16 := by cases s.ready <;> rfl
  rw [exec_poll, afterPoll_eq, hfires, hword]
  rfl

/-- Settles O39: the check does not fire, so the retry bit is 0 and the counter stays. -/
theorem pollReportsReady : Obligations.PollReportsReady := by
  unfold Obligations.PollReportsReady
  intro s hquiet
  have hquiet : linkUnhealthy s = false := hquiet.elim linkUnhealthy_of_baudValid linkUnhealthy_of_le
  have hword : pollWord false s.ready = if s.ready then 1#16 else 0#16 := by cases s.ready <;> rfl
  rw [exec_poll, afterPoll_eq, hquiet, hword]
  rfl

/-- Settles O42: by `linkUnhealthy_afterPoll`, with Baud-Valid clear a statement about the count. -/
theorem secondPollNeverFires : Obligations.SecondPollNeverFires := by
  unfold Obligations.SecondPollNeverFires
  intro s t u hfirst hsecond
  cases hfirst
  cases hsecond
  refine ⟨(afterPoll_retry _).trans (linkUnhealthy_afterPoll s), fun hvalid => ?_⟩
  by_contra hjunk
  have hfires : linkUnhealthy (afterPoll s) = true :=
    (linkUnhealthy_iff _).mpr ⟨(afterPoll_baudValid s).trans hvalid, Nat.not_le.mp hjunk⟩
  simp at hfires

/-- Settles O43: a ready frame implies Baud-Valid, with which the check does not fire. -/
theorem pollNeverAnswersThree : Obligations.PollNeverAnswersThree := by
  unfold Obligations.PollNeverAnswersThree
  intro s t hinv hrun
  cases hrun
  rw [← afterPoll, afterPoll_hostResult]
  cases hready : s.ready with
  | false => cases linkUnhealthy s <;> decide
  | true =>
    obtain ⟨-, hvalid, -⟩ := hinv.readyFrame hready
    rw [linkUnhealthy_of_baudValid hvalid]
    decide

/-- The state an INIT leaves (R191). -/
def afterInit (s : State) : State :=
  answer (initWord s.transportOpenOk) { initialise s with transportOpen := true }

/-- The rule of `exec` for INIT (R191): it always answers a next state. -/
@[simp] theorem exec_init (s : State) : exec .init s = .next (afterInit s) := rfl

/-- Settles O44: INIT's state is the reset state but for the fields it names. -/
theorem initReinitialisesAndOpens : Obligations.InitReinitialisesAndOpens := by
  unfold Obligations.InitReinitialisesAndOpens
  intro s
  have hword : initWord s.transportOpenOk = if s.transportOpenOk then 1#16 else 0#16 := by
    cases s.transportOpenOk <;> rfl
  rw [exec_init, afterInit, hword]
  rfl

/-- Settles O45: the fields POLL and RDCH leave, by their states written out. -/
theorem hostReadsLeaveTheAssemblerAlone : Obligations.HostReadsLeaveTheAssemblerAlone := by
  unfold Obligations.HostReadsLeaveTheAssemblerAlone
  rintro i s t (rfl | ⟨index, rfl⟩) hrun
  · cases hrun
    rw [← afterPoll, afterPoll_eq]
    exact ⟨rfl, rfl, rfl, fun _ => rfl, rfl, rfl, rfl, rfl, rfl, rfl, fun _ => rfl, fun h => absurd rfl h⟩
  · rw [exec_rdch_next.mp hrun]
    exact ⟨rfl, rfl, rfl, fun _ => rfl, rfl, rfl, rfl, rfl, rfl, rfl, nofun, fun _ => ⟨rfl, rfl⟩⟩

/-! All HOST operations -/

/-- The state a HOST operation leaves; RXB is none. -/
def afterHost : Instr → State → State
  | .rxb _, s => s
  | .poll, s => afterPoll s
  | .rdch index, s => afterRdch index s
  | .init, s => afterInit s

/-- A HOST operation always answers a next state (R200). -/
theorem exec_host {i : Instr} (hhost : i.agent = .host) (s : State) : exec i s = .next (afterHost i s) := by
  cases i with
  | rxb b => cases hhost
  | poll => rfl
  | rdch index => exact execRdch_next index s
  | init => rfl

/-- Everything an operation can do where it answers a next state: a HOST operation's one state, or an outcome of RXB. -/
theorem exec_cases {i : Instr} {s t : State} (hrun : exec i s = .next t) :
    (i.agent = .host ∧ t = afterHost i s) ∨ ∃ b e, i = .rxb b ∧ RxbOutcome b s e t := by
  cases i with
  | rxb b =>
    obtain ⟨e, hout⟩ := rxbOutcome_of_next hrun
    exact .inr ⟨b, e, rfl, hout⟩
  | _ => exact .inl ⟨rfl, Host.Outcome.next.inj (hrun.symm.trans (exec_host rfl s))⟩

/-- No HOST operation makes a frame ready. -/
theorem afterHost_ready (i : Instr) {s : State} (h : (afterHost i s).ready = true) : s.ready = true := by
  cases i with
  | rxb b => exact h
  | poll => rwa [afterHost, afterPoll_ready] at h
  | rdch index => exact (Bool.and_eq_true_iff.mp h).1
  | init => cases h

/-- A run of HOST operations reaches its end. -/
theorem runOps_host {ops : List Instr} (hops : ∀ o ∈ ops, o.agent = .host) (s : State) :
    ∃ u, runOps ops s = .next u := by
  induction ops generalizing s with
  | nil => exact ⟨s, rfl⟩
  | cons i ops ih =>
    obtain ⟨hi, hrest⟩ := List.forall_mem_cons.mp hops
    obtain ⟨u, hu⟩ := ih hrest (afterHost i s)
    exact ⟨u, andThen_next.mpr ⟨_, exec_host hi s, hu⟩⟩

/-- Settles O37: an in-range read leaves no frame ready, no HOST operation makes one ready, and a read without one returns 0. -/
theorem oneChannelPerFrame : Obligations.OneChannelPerFrame := by
  unfold Obligations.OneChannelPerFrame
  intro i j ops s t hindex hrun hops
  have ht : t.ready = false := by
    rw [exec_rdch_next.mp hrun]
    exact Bool.and_eq_false_imp.mpr fun _ => decide_eq_false (Nat.not_le.mpr hindex)
  obtain ⟨u, hu⟩ := runOps_host hops t
  have hkeeps : ∀ o ∈ ops, ∀ v w : State, v.ready = false → exec o v = .next w → w.ready = false := by
    intro o ho v w hv hw
    cases (exec_host (hops o ho) v).symm.trans hw
    exact Bool.eq_false_iff.mpr fun h => Bool.false_ne_true (hv.symm.trans (afterHost_ready o h))
  have hready : u.ready = false := runOps_keeps (P := fun v => v.ready = false) hkeeps ht hu
  exact ⟨u, _, hu, execRdch_next j u, rdchResult_of_notReady hready⟩

/-- A read's answer depends on `S.ready` and, while it is 1, on the channel bytes (R30). -/
theorem rdchResult_congr {s t : State} (h : SameToHost s t) (index : Byte) : rdchResult index s = rdchResult index t := by
  unfold rdchResult
  by_cases hread : index.toNat < 16 ∧ s.ready = true
  · obtain ⟨hindex, hready⟩ := hread
    have hbytes := h.bytes hready
    rw [if_pos ⟨hindex, hready⟩, if_pos ⟨hindex, h.ready ▸ hready⟩,
      channelRaw_congr (hbytes _ (by omega) (by omega)) (hbytes _ (by omega) (by omega))]
  · rw [if_neg hread, if_neg (h.ready ▸ hread)]

theorem SameToHost.afterPoll {s t : State} (h : SameToHost s t) : SameToHost (afterPoll s) (afterPoll t) where
  ready := by simpa using h.ready
  unhealthy := by simp
  bytes := by simpa using h.bytes
  transportOpenOk := by simpa using h.transportOpenOk

theorem SameToHost.afterRdch {s t : State} (h : SameToHost s t) (index : Byte) :
    SameToHost (afterRdch index s) (afterRdch index t) where
  ready := congrArg (· && decide (16 ≤ index.toNat)) h.ready
  unhealthy := h.unhealthy
  bytes := fun hready => h.bytes (Bool.and_eq_true_iff.mp hready).1
  transportOpenOk := h.transportOpenOk

/-- Settles O52: each answer is a function of what the two states agree on, and POLL and RDCH keep the agreement. -/
theorem hostSeesOnlyFlagsHealthAndChannelBytes : Obligations.HostSeesOnlyFlagsHealthAndChannelBytes := by
  unfold Obligations.HostSeesOnlyFlagsHealthAndChannelBytes
  intro i s t s' t' hhost h hs ht
  cases (exec_host hhost s).symm.trans hs
  cases (exec_host hhost t).symm.trans ht
  cases i with
  | rxb b => cases hhost
  | poll => exact ⟨congrArg₂ pollWord h.unhealthy h.ready, fun _ => h.afterPoll⟩
  | rdch index => exact ⟨rdchResult_congr h index, fun _ => h.afterRdch index⟩
  | init => exact ⟨congrArg initWord h.transportOpenOk, fun hi => absurd rfl hi⟩

end Sys2Proof.Machine
end

section
/-! PROOFS. The invariant of R29 (spec/10_state.md section 2): every operation and every step keeps it, and no step stops the
block; then the obligations O46, O47, O48, O49 and O50. -/

namespace Sys2Proof.Machine

/-- The invariant is about the tuple `S`, the draw and the output ports. -/
theorem Inv.congr {s t : State} (hinv : Inv s) (hphase : t.phase = s.phase) (hpos : t.pos = s.pos)
    (hexplen : t.explen = s.explen) (hbuf : t.buf = s.buf) (hdraws : t.draws = s.draws)
    (hready : t.ready = true → s.ready = true) (hvalid : t.baudValid = s.baudValid)
    (hports : t.hostRvalid = false → t.hostResult = 0#16 ∧ t.transportOpen = false) : Inv t := by
  have hbytes : ∀ k, byteAt t k = byteAt s k := byteAt_congr hbuf hdraws
  have hres : ∀ n, residue t n = residue s n := fun n => residue_congr fun k _ => hbytes k
  constructor
  case bufWf => exact hbuf ▸ hinv.bufWf
  case explenRange => exact hexplen ▸ hinv.explenRange
  case posRange => exact hpos ▸ hinv.posRange
  case capturing =>
    intro hcap
    obtain ⟨hlow, hhigh, hstart, hnot⟩ := hinv.capturing (hphase ▸ hcap)
    rw [hpos, hexplen, hbytes]
    exact ⟨hlow, hhigh, hstart, Bool.eq_false_iff.mpr fun h => Bool.false_ne_true (hnot.symm.trans (hready h))⟩
  case candidate =>
    intro hcap
    rw [hpos, hexplen, hbytes, hbytes, hbuf]
    exact hinv.candidate (hphase ▸ hcap)
  case readyFrame =>
    intro h
    rw [hphase, hvalid, hexplen, hbytes, hbytes, hbytes, hres, hbuf]
    exact hinv.readyFrame (hready h)
  case ports => exact hports

/-- In IDLE with no frame ready the invariant asks for the ranges and the ports alone. -/
theorem inv_of_idle_of_notReady {s : State} (hidle : s.phase = .idle) (hready : s.ready = false) (hbuf : s.buf.wf = true)
    (hexplen : 7 ≤ s.explen.toNat ∧ s.explen.toNat ≤ 70) (hpos : s.pos.toNat ≤ 70)
    (hports : s.hostRvalid = false → s.hostResult = 0#16 ∧ s.transportOpen = false) : Inv s where
  bufWf := hbuf
  explenRange := hexplen
  posRange := hpos
  capturing hcap := absurd (hidle.symm.trans hcap) nofun
  candidate hcap := absurd (hidle.symm.trans hcap) nofun
  readyFrame h := absurd (hready.symm.trans h) nofun
  ports := hports

/-- Settles O46: the reset state is IDLE with no frame ready. -/
theorem invariantHoldsAtReset : Obligations.InvariantHoldsAtReset :=
  inv_of_idle_of_notReady rfl rfl rfl (by decide) (by decide) fun _ => ⟨rfl, rfl⟩

theorem inv_initialise {s : State} (hports : s.hostRvalid = false → s.hostResult = 0#16 ∧ s.transportOpen = false) :
    Inv (initialise s) :=
  inv_of_idle_of_notReady rfl rfl rfl (by simp) (by simp) hports

theorem inv_beginCycle {s : State} (hinv : Inv s) : Inv (beginCycle s) :=
  hinv.congr rfl rfl rfl rfl rfl id rfl fun _ => ⟨rfl, rfl⟩

theorem inv_afterHost (i : Instr) {s : State} (hinv : Inv s) : Inv (afterHost i s) := by
  cases i with
  | rxb b => exact hinv
  | poll =>
    rw [afterHost, afterPoll_eq]
    exact hinv.congr rfl rfl rfl rfl rfl id rfl nofun
  | rdch index => exact hinv.congr rfl rfl rfl rfl rfl (fun h => (Bool.and_eq_true_iff.mp h).1) rfl nofun
  | init => exact inv_of_idle_of_notReady rfl rfl rfl (by simp [afterHost, afterInit]) (by simp [afterHost, afterInit]) nofun

/-! The candidate being captured -/

/-- A start marker begins a candidate of one byte. -/
theorem inv_start {s : State} (hinv : Inv s) :
    Inv (emit .start (clearReady { s with phase := .capturing, pos := 1#7, explen := 7#7, buf := s.buf.write 0 0x3E#8 })) where
  bufWf := Memory.wf_write _ _ _ hinv.bufWf (by decide)
  explenRange := by simp
  posRange := by simp
  capturing _ := ⟨by simp, by simp, byteAt_write_same s 0 _, rfl⟩
  candidate _ := by
    refine ⟨fun _ => by simp, by simp, by simp, fun k hk => ?_⟩
    obtain rfl : k = 0 := by simpa using hk
    exact Option.isSome_of_eq_some (Memory.read_write_same _ _ _)
  readyFrame h := nomatch h
  ports := hinv.ports

theorem wf_afterStore {b : Byte} {s : State} (hinv : Inv s) (hpos : s.pos.toNat < 70) : (afterStore b s).buf.wf = true :=
  Memory.wf_write _ _ _ hinv.bufWf hpos

/-- The expected length stays in range: a length byte out of range is not captured. -/
theorem explenAfter_range {b : Byte} {s : State} (hinv : Inv s) (h : Captures b s) :
    7 ≤ (explenAfter b s).toNat ∧ (explenAfter b s).toNat ≤ 70 := by
  by_cases hpos : s.pos.toNat = 2
  · obtain ⟨hlow, hhigh⟩ := h.lengthOk hpos
    rw [explenAfter_of_eq hpos, lengthOf_toNat hhigh]
    exact ⟨hlow, hhigh⟩
  · rw [explenAfter_of_ne hpos]
    exact hinv.explenRange

/-- A candidate's bytes are all stored, the one at the position among them now. -/
theorem isSome_read_afterStore {b : Byte} {s : State} (hinv : Inv s) (hcap : s.phase = .capturing) {k : Nat}
    (hk : k < s.pos.toNat + 1) : ((afterStore b s).buf.read k).isSome := by
  obtain ⟨-, -, -, hstored⟩ := hinv.candidate hcap
  by_cases hat : k = s.pos.toNat
  · subst hat
    exact Option.isSome_of_eq_some (Memory.read_write_same _ _ _)
  · rw [afterStore_buf, Memory.read_write_ne _ _ hat]
    exact hstored k (by omega)

/-- The header of a candidate after a captured byte: start marker, length byte and type byte stand where the position has passed
them (R67, R104, R105). -/
theorem Captures.header {b : Byte} {s : State} (hinv : Inv s) (h : Captures b s) :
    byteAt (afterStore b s) 0 = 0x3E#8 ∧
    (2 ≤ s.pos.toNat → (byteAt (afterStore b s) 2).toNat = (explenAfter b s).toNat) ∧
    (4 ≤ s.pos.toNat → byteAt (afterStore b s) 4 = 0x31#8) := by
  obtain ⟨hpos, -, hstart, -⟩ := hinv.capturing h.phase
  obtain ⟨-, hlength, htype, -⟩ := hinv.candidate h.phase
  simp only [byteAt_afterStore]
  refine ⟨?_, fun hle => ?_, fun hle => ?_⟩
  · rwa [if_neg (by omega)]
  · by_cases hat : s.pos.toNat = 2
    · rw [if_pos hat.symm, explenAfter_of_eq hat, lengthOf_toNat (h.lengthOk hat).2]
    · rw [if_neg (Ne.symm hat), explenAfter_of_ne hat]
      exact hlength (by omega)
  · by_cases hat : s.pos.toNat = 4
    · rw [if_pos hat.symm]
      exact h.typeOk hat
    · rw [if_neg (Ne.symm hat)]
      exact htype (by omega)

/-- A captured byte that does not end the candidate (R103). -/
theorem inv_store {b : Byte} {s : State} (hinv : Inv s) (h : Captures b s) (hmore : s.pos + 1#7 ≠ explenAfter b s) :
    Inv (emit .store { captured b s with pos := s.pos + 1#7 }) := by
  have hinside := h.inside
  have hnext : (s.pos + 1#7).toNat = s.pos.toNat + 1 := by bv_omega
  obtain ⟨hstart, hlength, htype⟩ := h.header hinv
  obtain ⟨hpos, hlast, -, hready⟩ := hinv.capturing h.phase
  obtain ⟨hshort, -⟩ := hinv.candidate h.phase
  have hroom : s.pos.toNat + 1 ≤ (explenAfter b s).toNat - 1 := by
    obtain ⟨hmin, -⟩ := explenAfter_range hinv h
    by_cases hat : s.pos.toNat = 2
    · omega
    · rw [explenAfter_of_ne hat] at hmore ⊢
      bv_omega
  have hseven : s.pos.toNat + 1 ≤ 2 → (explenAfter b s).toNat = 7 := fun hle => by
    rw [explenAfter_of_ne (by omega)]
    exact hshort (by omega)
  constructor
  case bufWf => exact wf_afterStore hinv hinside
  case explenRange => exact explenAfter_range hinv h
  case posRange => exact hnext.trans_le hinside
  case capturing => exact fun _ => ⟨by simp [hnext], hnext.trans_le hroom, hstart, hready⟩
  case candidate =>
    simp only [emit_pos, hnext, emit_explen]
    exact fun _ => ⟨hseven, fun hlt => hlength (by omega), fun hlt => htype (by omega),
      fun k hk => isSome_read_afterStore hinv h.phase hk⟩
  case readyFrame => exact fun hset => absurd (hready.symm.trans hset) nofun
  case ports => exact hinv.ports

/-- A passing completion leaves a whole frame (R106). -/
theorem inv_frameOk {b : Byte} {s : State} (hinv : Inv s) (h : Captures b s) (hend : s.pos + 1#7 = explenAfter b s)
    (hcrc : residue (afterStore b s) (explenAfter b s).toNat = some 0#16) :
    Inv (emit .frameOk (markValid (endCandidate (captured b s)))) := by
  obtain ⟨hlast, hpos⟩ := (h.ends_iff hinv).mp hend
  obtain ⟨hstart, hlength, htype⟩ := h.header hinv
  have hrange := explenAfter_range hinv h
  have hstored : ∀ k, k < (explenAfter b s).toNat → ((afterStore b s).buf.read k).isSome := fun k hk =>
    isSome_read_afterStore hinv h.phase (by rw [explenAfter_of_ne (by omega)] at hk; omega)
  constructor
  case bufWf => exact wf_afterStore hinv h.inside
  case explenRange => exact hrange
  case posRange => exact hrange.2
  case capturing => nofun
  case candidate => nofun
  case readyFrame => exact fun _ => ⟨rfl, rfl, hstart, hlength (by omega), htype (by omega), hcrc, hstored⟩
  case ports => exact hinv.ports

theorem inv_rxbOutcome {b : Byte} {s t : State} {e : Event} (hinv : Inv s) (h : RxbOutcome b s e t) : Inv t := by
  cases h with
  | start hidle hb => subst hb; exact inv_start hinv
  | junk hidle hb => exact hinv.congr rfl rfl rfl rfl rfl id rfl hinv.ports
  | lenAbort hcap hpos hb | typeFilter hcap hpos hb =>
    obtain ⟨-, -, -, hready⟩ := hinv.capturing hcap
    exact inv_of_idle_of_notReady rfl hready (wf_afterStore hinv (by omega)) hinv.explenRange hinv.posRange hinv.ports
  | store hcap hmore => exact inv_store hinv hcap hmore
  | frameOk hcap hend hcrc => exact inv_frameOk hinv hcap hend hcrc
  | crcFail hcap hend hmax hcrc =>
    obtain ⟨-, -, -, hready⟩ := hinv.capturing hcap.phase
    exact inv_of_idle_of_notReady rfl hready (wf_afterStore hinv hcap.inside) (explenAfter_range hinv hcap) hmax hinv.ports

/-- Every operation keeps the invariant. -/
theorem exec_keeps_inv {i : Instr} {s t : State} (hinv : Inv s) (hrun : exec i s = .next t) : Inv t := by
  obtain ⟨-, rfl⟩ | ⟨b, e, -, hout⟩ := exec_cases hrun
  · exact inv_afterHost i hinv
  · exact inv_rxbOutcome hinv hout

/-- What a reset leaves, what the begin of any other cycle has and every operation keeps, a step leaves. -/
theorem step_keeps {P : State → Prop} {s t : State} (hrun : step s = .next t)
    (hreset : (nextCycle s).rst = true → P (initialise (beginCycle s)))
    (hbegin : (nextCycle s).rst = false → P (beginCycle s))
    (hop : ∀ i u v, P u → exec i u = .next v → P v) : P t := by
  obtain ⟨hrst, rfl⟩ | ⟨hrst, u, hhost, hrx⟩ := step_next.mp hrun
  · exact hreset hrst
  have hu : P u := by
    obtain ⟨-, rfl⟩ | ⟨w, i, -, -, hexec⟩ := runHost_next.mp hhost
    · exact hbegin hrst
    · exact hop i _ _ (hbegin hrst) hexec
  obtain ⟨-, rfl⟩ | ⟨b, -, hexec⟩ := runRx_next.mp hrx
  · exact hu
  · exact hop (.rxb b) _ _ hu hexec

/-- Settles O47: the begin of a cycle, a reset and every operation keep the invariant. -/
theorem everyStepKeepsTheInvariant : Obligations.EveryStepKeepsTheInvariant := by
  unfold Obligations.EveryStepKeepsTheInvariant
  intro s t hinv hrun
  have hbegin := inv_beginCycle hinv
  exact step_keeps hrun (fun _ => inv_initialise hbegin.ports) (fun _ => hbegin) fun i u v => exec_keeps_inv

/-! Nothing stops the block -/

/-- No operation stops the block in a state that meets the invariant (R111, R200). -/
theorem exec_total {s : State} (hinv : Inv s) (i : Instr) : ∃ t, exec i s = .next t := by
  cases i with
  | rxb b =>
    obtain ⟨e, t, hout⟩ := exists_rxbOutcome hinv b
    exact ⟨t, hout.run⟩
  | _ => exact ⟨_, exec_host rfl s⟩

theorem afterHost_input (i : Instr) (s : State) : (afterHost i s).input = s.input := by
  cases i with
  | poll => rw [afterHost, afterPoll_eq]; rfl
  | _ => rfl

theorem exec_input {i : Instr} {s t : State} (hrun : exec i s = .next t) : t.input = s.input := by
  obtain ⟨-, rfl⟩ | ⟨b, e, -, hout⟩ := exec_cases hrun
  · exact afterHost_input i s
  · exact hout.samePorts.input.symm

/-- A step takes up one cycle of the input. -/
theorem step_input {s t : State} (hrun : step s = .next t) : t.input = s.input.tail :=
  step_keeps (P := fun u => u.input = s.input.tail) hrun (fun _ => rfl) (fun _ => rfl)
    fun _ _ _ hu hexec => (exec_input hexec).trans hu

/-- The HOST's duty over the input to come is its duty in the next cycle and after it; a silent cycle owes nothing. -/
theorem hostDuties_split {s : State} (h : hostDuties s.input = true) :
    hostDuty (nextCycle s) = true ∧ hostDuties s.input.tail = true := by
  cases hinput : s.input with
  | nil => exact ⟨by rw [nextCycle, hinput]; rfl, rfl⟩
  | cons c rest =>
    rw [hinput, hostDuties, List.all_cons, Bool.and_eq_true] at h
    rw [nextCycle_of_input hinput]
    exact h

/-- While the HOST keeps its duty, its port stops no cycle that is not a reset. -/
theorem runHost_total {c : Cycle} {s : State} (hinv : Inv s) (hduty : hostDuty c = true) (hrst : c.rst = false) :
    ∃ u, runHost c.host s = .next u ∧ Inv u := by
  cases hhost : c.host with
  | none => exact ⟨s, rfl, hinv⟩
  | some w =>
    cases hdecode : decodeHost w with
    | error why => simp [hostDuty, hrst, hhost, hdecode, Except.toBool] at hduty
    | ok i =>
      obtain ⟨u, hrun⟩ := exec_total hinv i
      exact ⟨u, runHost_next.mpr (.inr ⟨w, i, rfl, hdecode, hrun⟩), exec_keeps_inv hinv hrun⟩

/-- The RX port stops no cycle: every byte is legal (R63). -/
theorem runRx_total {s : State} (hinv : Inv s) (rx : Option Byte) : ∃ t, runRx rx s = .next t := by
  cases rx with
  | none => exact ⟨s, rfl⟩
  | some b => exact exec_total hinv (.rxb b)

theorem step_total {s : State} (hinv : Inv s) (hduty : hostDuty (nextCycle s) = true) : ∃ t, step s = .next t := by
  cases hrst : (nextCycle s).rst with
  | true => exact ⟨_, step_next.mpr (.inl ⟨hrst, rfl⟩)⟩
  | false =>
    obtain ⟨u, hhost, hu⟩ := runHost_total (inv_beginCycle hinv) hduty hrst
    obtain ⟨t, hrx⟩ := runRx_total hu (nextCycle s).rx
    exact ⟨t, step_next.mpr (.inr ⟨hrst, u, hhost, hrx⟩)⟩

/-- One step of a run. -/
theorem run_succ (n : Nat) (s : State) : Sys2Proof.core.run (n + 1) s = andThen (step s) (Sys2Proof.core.run n) := by
  have hstep : Sys2Proof.core.step s = step s := rfl
  have hrun := Host.Core.run.eq_2 Sys2Proof.core s n
  rw [hstep] at hrun
  exact hrun.trans (by cases step s <;> rfl)

theorem run_succ_next {n : Nat} {s t : State} :
    Sys2Proof.core.run (n + 1) s = .next t ↔ ∃ u, step s = .next u ∧ Sys2Proof.core.run n u = .next t := by
  rw [run_succ]
  exact andThen_next

/-- Settles O48: operations by `exec_total`; a step by both ports, keeping the invariant and the duty; a run by induction on its
length. -/
theorem nothingStopsTheBlock : Obligations.NothingStopsTheBlock := by
  unfold Obligations.NothingStopsTheBlock
  have hstep : ∀ s : State, Inv s → hostDuties s.input = true →
      ∃ t, step s = .next t ∧ Inv t ∧ hostDuties t.input = true := by
    intro s hinv hduties
    obtain ⟨hduty, hrest⟩ := hostDuties_split hduties
    obtain ⟨t, hrun⟩ := step_total hinv hduty
    exact ⟨t, hrun, everyStepKeepsTheInvariant s t hinv hrun, step_input hrun ▸ hrest⟩
  refine ⟨fun i s hinv => exec_total hinv i, hstep, fun n => ?_⟩
  induction n with
  | zero => exact fun s _ _ => ⟨s, rfl⟩
  | succ n ih =>
    intro s hinv hduties
    obtain ⟨u, hrun, hu, hrest⟩ := hstep s hinv hduties
    obtain ⟨t, ht⟩ := ih u hu hrest
    exact ⟨t, run_succ_next.mpr ⟨u, hrun, ht⟩⟩

/-! Frame-Ready -/

/-- A received byte after which a frame is ready completed it, or left the ready frame as it was. -/
theorem RxbOutcome.ready_cases {b : Byte} {s t : State} {e : Event} (hinv : Inv s) (h : RxbOutcome b s e t)
    (hready : t.ready = true) : e = .frameOk ∨ (s.ready = true ∧ t.explen = s.explen ∧ SameBytes s t) := by
  have hcapturing : s.phase = .capturing → s.ready ≠ true := fun hcap => by
    obtain ⟨-, -, -, hnot⟩ := hinv.capturing hcap
    simp [hnot]
  cases h with
  | start => cases hready
  | junk => exact .inr ⟨hready, rfl, fun _ => rfl⟩
  | lenAbort hcap | typeFilter hcap => exact absurd hready (hcapturing hcap)
  | store hcap | crcFail hcap => exact absurd hready (hcapturing hcap.phase)
  | frameOk => exact .inl rfl

/-- Settles O49: no HOST operation makes a frame ready, and of RXB's outcomes only a passing completion does. -/
theorem onlyAPassingCompletionSetsReady : Obligations.OnlyAPassingCompletionSetsReady := by
  unfold Obligations.OnlyAPassingCompletionSetsReady
  intro i s t hinv hrun hnot hready
  obtain ⟨-, rfl⟩ | ⟨b, e, rfl, hout⟩ := exec_cases hrun
  · exact absurd (hnot.symm.trans (afterHost_ready i hready)) nofun
  obtain rfl | ⟨hs, -⟩ := hout.ready_cases hinv hready
  · refine ⟨b, rfl, ?_⟩
    cases hout with
    | frameOk hcap hend hcrc =>
      obtain ⟨hlast, -⟩ := (hcap.ends_iff hinv).mp hend
      rw [hcap.residue_eq hinv hend, Option.some.injEq] at hcrc
      exact ⟨hcap.phase, hlast, hcrc, rfl⟩
  · exact absurd (hnot.symm.trans hs) nofun

/-- A HOST operation after which a frame is ready left its length, its bytes and the labels so far. -/
theorem afterHost_of_ready {i : Instr} {s : State} (hready : (afterHost i s).ready = true) :
    (afterHost i s).explen = s.explen ∧ SameBytes s (afterHost i s) ∧ ∀ e ∈ s.events, e ∈ (afterHost i s).events := by
  cases i with
  | rxb b | rdch index => exact ⟨rfl, fun _ => rfl, fun _ => id⟩
  | poll =>
    rw [afterHost, afterPoll_eq]
    refine ⟨rfl, fun _ => rfl, fun e he => ?_⟩
    simp only [answer_events]
    split
    · exact List.mem_append_left _ he
    · exact he
  | init => cases hready

/-- `WholeFrom s u`: a frame ready in `u` completed since the labels were cleared, or was ready in `s` with the same length and
bytes. -/
def WholeFrom (s u : State) : Prop :=
  u.ready = true → .frameOk ∈ u.events ∨ (s.ready = true ∧ u.explen = s.explen ∧ SameBytes s u)

theorem exec_wholeFrom {i : Instr} {s u v : State} (hinv : Inv u) (hu : WholeFrom s u) (hrun : exec i u = .next v) :
    WholeFrom s v := by
  intro hready
  obtain ⟨-, rfl⟩ | ⟨b, e, -, hout⟩ := exec_cases hrun
  · obtain ⟨hexplen, hbytes, hevents⟩ := afterHost_of_ready hready
    obtain hmem | ⟨hs, hsame, hread⟩ := hu (afterHost_ready i hready)
    · exact .inl (hevents _ hmem)
    · exact .inr ⟨hs, hexplen.trans hsame, fun k => (hbytes k).trans (hread k)⟩
  · rw [hout.events_eq]
    obtain rfl | ⟨huready, hexplen, hbytes⟩ := hout.ready_cases hinv hready
    · exact .inl (by simp)
    obtain hmem | ⟨hs, hsame, hread⟩ := hu huready
    · exact .inl (List.mem_append_left _ hmem)
    · exact .inr ⟨hs, hexplen.trans hsame, fun k => (hbytes k).trans (hread k)⟩

/-- Settles O50: every operation of the step keeps `WholeFrom` (and the invariant it needs), and the begin of the cycle and a
reset have it. -/
theorem readyFrameIsNeverTorn : Obligations.ReadyFrameIsNeverTorn := by
  unfold Obligations.ReadyFrameIsNeverTorn
  intro s t hinv hrun
  have hbegin := inv_beginCycle hinv
  have hkeeps : ∀ i u v, Inv u ∧ WholeFrom s u → exec i u = .next v → Inv v ∧ WholeFrom s v :=
    fun i u v ⟨hu, hwhole⟩ hexec => ⟨exec_keeps_inv hu hexec, exec_wholeFrom hu hwhole hexec⟩
  exact (step_keeps (P := fun u => Inv u ∧ WholeFrom s u) hrun (fun _ => ⟨inv_initialise hbegin.ports, nofun⟩)
    (fun _ => ⟨hbegin, fun hready => .inr ⟨hready, rfl, fun _ => rfl⟩⟩) hkeeps).2

end Sys2Proof.Machine
end

section
/-! PROOFS. A clock cycle and runs of cycles (spec/20_memory.md section 5, spec/30_encoding.md section 1): what a step does for
each thing that can stand on the ports, and states that differ in what no operation reads; then the obligations O5 to O10, O51,
O53 and O54. -/

namespace Sys2Proof.Machine

/-! What stands on the ports -/

theorem beginCycle_of_input {s : State} {c : Cycle} {rest : List Cycle} (h : s.input = c :: rest) :
    beginCycle s = { s with
      input := rest, transportOpenOk := c.transportOpenOk, hostRvalid := false, hostResult := 0#16,
      transportOpen := false, events := [] } := by
  rw [beginCycle, nextCycle_of_input h, h]
  rfl

/-- A HOST word alone (R48). -/
theorem step_host {s : State} {w : OpWord} {i : Instr} {ok : Bool} {rest : List Cycle} (hdecode : decodeHost w = .ok i)
    (h : s.input = ⟨false, some w, none, ok⟩ :: rest) : step s = exec i (beginCycle s) := by
  have hhost : runHost (some w) (beginCycle s) = exec i (beginCycle s) := by simp [runHost, hdecode]
  rw [step, nextCycle_of_input h, runCycle, if_neg Bool.false_ne_true, hhost]
  cases exec i (beginCycle s) <;> rfl

/-- A received byte alone (R48). -/
theorem step_rx {s : State} {b : Byte} {ok : Bool} {rest : List Cycle} (h : s.input = ⟨false, none, some b, ok⟩ :: rest) :
    step s = execRxb b (beginCycle s) := by
  rw [step, nextCycle_of_input h]
  rfl

/-- A cycle with `rst` high (R220). -/
theorem step_reset {s : State} (h : (nextCycle s).rst = true) : step s = .next (initialise (beginCycle s)) :=
  step_next.mpr (.inl ⟨h, rfl⟩)

/-- A silent cycle (R60). -/
theorem step_silent {s : State} (hrst : (nextCycle s).rst = false) (hhost : (nextCycle s).host = none)
    (hrx : (nextCycle s).rx = none) : step s = .next (beginCycle s) :=
  step_next.mpr (.inr ⟨hrst, beginCycle s, by rw [hhost]; rfl, by rw [hrx]; rfl⟩)

/-- An RXB is presented on the RX port (R62). -/
theorem cycleOfWord_encode_rxb (b : Byte) (ok : Bool) : cycleOfWord (encode (.rxb b)) ok = ⟨false, none, some b, ok⟩ := by
  rw [cycleOfWord, decode_encode]

/-- Any other operation is presented on the HOST port (R62). -/
theorem cycleOfWord_encode_host {i : Instr} (hhost : i.agent = .host) (ok : Bool) :
    cycleOfWord (encode i) ok = ⟨false, some (encode i), none, ok⟩ := by
  rw [cycleOfWord, decode_encode]
  cases i with
  | rxb b => cases hhost
  | _ => rfl

/-- Settles O5: `step_host` and `step_rx`. -/
theorem stepRunsTheIssuedOperation : Obligations.StepRunsTheIssuedOperation := by
  unfold Obligations.StepRunsTheIssuedOperation
  intro s ok rest begun
  refine ⟨fun w i hdecode hhost hinput => ?_, fun b hinput => ?_⟩
  · rw [step_host (decodeHost_ok.mpr ⟨hdecode, hhost⟩) hinput, beginCycle_of_input hinput]
  · rw [step_rx hinput, beginCycle_of_input hinput, exec_rxb]

/-- Settles O6: the placed word is the encoding of its operation, which stands alone on its agent's port. -/
theorem placedWordIsRunNext : Obligations.PlacedWordIsRunNext := by
  unfold Obligations.PlacedWordIsRunNext
  intro s nbits w i hdecode
  have hword : tableWord nbits w = encode i := by
    unfold decodeTableWord at hdecode
    split at hdecode
    · cases hresult : decode (tableWord nbits w) with
      | error why => simp [hresult, Except.toOption] at hdecode
      | ok j =>
        obtain rfl : j = i := by simpa [hresult, Except.toOption] using hdecode
        exact (encode_of_decode hresult).symm
    · cases hdecode
  cases hagent : i.agent with
  | host =>
    have hinput : (s.withFetchWord nbits w).input = ⟨false, some (encode i), none, s.transportOpenOk⟩ :: s.input := by
      rw [State.withFetchWord, hword, cycleOfWord_encode_host hagent]
    rw [step_host (decodeHost_eq_ok_iff.mpr ⟨rfl, hagent⟩) hinput, beginCycle_of_input hinput]
    rfl
  | rx =>
    cases i with
    | rxb b =>
      have hinput : (s.withFetchWord nbits w).input = ⟨false, none, some b, s.transportOpenOk⟩ :: s.input := by
        rw [State.withFetchWord, hword, cycleOfWord_encode_rxb]
      rw [step_rx hinput, beginCycle_of_input hinput]
      rfl
    | _ => cases hagent

/-- Settles O8: `step_reset`, which reads neither port. -/
theorem resetDiscardsBothPorts : Obligations.ResetDiscardsBothPorts := by
  unfold Obligations.ResetDiscardsBothPorts
  intro s host rx ok rest hinput
  rw [step_reset (by rw [nextCycle_of_input hinput]), beginCycle_of_input hinput]
  rfl

/-! What no operation reads -/

/-- Two states that differ at most in the ports, the input and the labels: all that an RXB reads is the same. -/
structure SameCore (s t : State) : Prop where
  phase : s.phase = t.phase
  pos : s.pos = t.pos
  explen : s.explen = t.explen
  buf : s.buf = t.buf
  ready : s.ready = t.ready
  junk : s.junk = t.junk
  baudValid : s.baudValid = t.baudValid
  draws : s.draws = t.draws

theorem SameCore.sameBlock {s t : State} (h : SameCore s t) : SameBlock s t :=
  ⟨h.phase, h.pos, h.explen, byteAt_congr h.buf h.draws, h.ready, h.junk, h.baudValid⟩

theorem SameCore.exists_eq {s t : State} (h : SameCore s t) : ∃ rvalid result openPulse openOk events input, t = { s with
    hostRvalid := rvalid, hostResult := result, transportOpen := openPulse, transportOpenOk := openOk, events := events,
    input := input } := by
  obtain ⟨_, _, _, _, _, _, _, _, _, _, _, _, _, _⟩ := t
  obtain ⟨rfl, rfl, rfl, rfl, rfl, rfl, rfl, rfl⟩ := h
  exact ⟨_, _, _, _, _, _, rfl⟩

theorem SameCore.captures {b : Byte} {s t : State} (h : SameCore s t) (hcap : Captures b s) : Captures b t where
  phase := h.phase ▸ hcap.phase
  inside := h.pos ▸ hcap.inside
  lengthOk := h.pos ▸ hcap.lengthOk
  typeOk := h.pos ▸ hcap.typeOk

/-- From such states a byte has the same outcome and leaves such states. -/
theorem RxbOutcome.congr {b : Byte} {s t s' : State} {e : Event} (h : SameCore s t) (hout : RxbOutcome b s e s') :
    ∃ t', RxbOutcome b t e t' ∧ SameCore s' t' := by
  have hcaptures := h.captures (b := b)
  obtain ⟨_, _, _, _, _, _, rfl⟩ := h.exists_eq
  cases hout with
  | start hidle hb => exact ⟨_, .start hidle hb, by constructor <;> rfl⟩
  | junk hidle hb => exact ⟨_, .junk hidle hb, by constructor <;> rfl⟩
  | lenAbort hcap hpos hb => exact ⟨_, .lenAbort hcap hpos hb, by constructor <;> rfl⟩
  | typeFilter hcap hpos hb => exact ⟨_, .typeFilter hcap hpos hb, by constructor <;> rfl⟩
  | store hcap hmore => exact ⟨_, .store (hcaptures hcap) hmore, by constructor <;> rfl⟩
  | frameOk hcap hend hcrc => exact ⟨_, .frameOk (hcaptures hcap) hend hcrc, by constructor <;> rfl⟩
  | crcFail hcap hend hmax hcrc => exact ⟨_, .crcFail (hcaptures hcap) hend hmax hcrc, by constructor <;> rfl⟩

theorem sameCore_refl (s : State) : SameCore s s := ⟨rfl, rfl, rfl, rfl, rfl, rfl, rfl, rfl⟩

theorem SameCore.symm {s t : State} (h : SameCore s t) : SameCore t s :=
  ⟨h.phase.symm, h.pos.symm, h.explen.symm, h.buf.symm, h.ready.symm, h.junk.symm, h.baudValid.symm, h.draws.symm⟩

theorem sameCore_beginCycle (s : State) : SameCore s (beginCycle s) := by
  constructor <;> rfl

/-- No HOST operation reads the input to come. -/
theorem afterHost_withInput (i : Instr) (s : State) (input : List Cycle) :
    afterHost i { s with input := input } = { afterHost i s with input := input } := by
  cases i with
  | poll => simp only [afterHost, afterPoll_eq]; rfl
  | _ => rfl

/-- Settles O7: the first of the two cycles differs from the one only in the input to come, which no HOST operation reads; the
second begins in a state that differs only in the ports, the input and the labels, which no RXB reads. -/
theorem sameCycleIsHostThenByte : Obligations.SameCycleIsHostThenByte := by
  unfold Obligations.SameCycleIsHostThenByte
  intro s w b ok rest t hinput hrun
  obtain ⟨hrst, -⟩ | ⟨-, u, hhost, hrx⟩ := step_next.mp hrun
  · rw [nextCycle_of_input hinput] at hrst
    cases hrst
  rw [nextCycle_of_input hinput] at hhost hrx
  obtain ⟨hnone, -⟩ | ⟨w', i, hw, hdecode, hexec⟩ := runHost_next.mp hhost
  · cases hnone
  obtain rfl := Option.some.inj hw
  have hagent := (decodeHost_ok.mp hdecode).2
  have hu := Host.Outcome.next.inj ((exec_host hagent _).symm.trans hexec)
  obtain ⟨hnone, -⟩ | ⟨b', hb, hbyte⟩ := runRx_next.mp hrx
  · cases hnone
  obtain rfl := Option.some.inj hb
  obtain ⟨e, hout⟩ := rxbOutcome_of_next hbyte
  have hfirst : step { s with input := ⟨false, some w, none, ok⟩ :: ⟨false, none, some b, ok⟩ :: rest } =
      .next { u with input := ⟨false, none, some b, ok⟩ :: rest } := by
    rw [step_host hdecode rfl, exec_host hagent, beginCycle_of_input rfl, ← hu, ← afterHost_withInput,
      beginCycle_of_input hinput]
  have hcore : SameCore u (beginCycle { u with input := ⟨false, none, some b, ok⟩ :: rest }) := by constructor <;> rfl
  obtain ⟨v, hout', hsame⟩ := hout.congr hcore
  have hsecond : step { u with input := ⟨false, none, some b, ok⟩ :: rest } = .next v := by
    rw [step_rx rfl, hout'.run]
  have hrest : u.input = rest := by
    rw [← hu, afterHost_input, beginCycle_of_input hinput]
  have hports := hout.samePorts
  have hinput' : t.input = v.input := by
    rw [← hports.input, ← hout'.samePorts.input, hrest]
    rfl
  have hevents : t.events = u.events ++ v.events := by
    rw [hout.events_eq, hout'.events_eq]
    rfl
  exact ⟨_, v, hfirst, hsecond, hsame.sameBlock, hsame.draws, hinput', hports.hostRvalid.symm, hports.hostResult.symm,
    hports.transportOpen.symm, hevents⟩

/-! Runs of cycles -/

theorem SameBlock.trans {s t u : State} (h : SameBlock s t) (h' : SameBlock t u) : SameBlock s u :=
  ⟨h.phase.trans h'.phase, h.pos.trans h'.pos, h.explen.trans h'.explen, fun k => (h.bytes k).trans (h'.bytes k),
    h.ready.trans h'.ready, h.junk.trans h'.junk, h.baudValid.trans h'.baudValid⟩

/-- What holds of the first listed cycle, and of a silent one, holds of the next cycle. -/
theorem nextCycle_of_forall {P : Cycle → Prop} {s : State} (hsilent : P (silentCycle s)) (h : ∀ c ∈ s.input.take 1, P c) :
    P (nextCycle s) := by
  unfold nextCycle
  split
  · exact hsilent
  next c _ hinput => exact h c (by simp [hinput])

/-- Settles O9: one silent cycle is the begin of a cycle and nothing more; many, by induction on their number. -/
theorem silenceChangesNothing : Obligations.SilenceChangesNothing := by
  unfold Obligations.SilenceChangesNothing
  intro n
  induction n with
  | zero => exact fun s _ => ⟨s, rfl, (sameCore_refl s).sameBlock, rfl, rfl, nofun⟩
  | succ n ih =>
    intro s hquiet
    obtain ⟨hrst, hhost, hrx⟩ := nextCycle_of_forall (P := fun c => c.rst = false ∧ c.host = none ∧ c.rx = none)
      ⟨rfl, rfl, rfl⟩ fun c hc => hquiet c (List.take_subset_take_left _ (by omega) hc)
    have hrest : ∀ c ∈ (beginCycle s).input.take n, c.rst = false ∧ c.host = none ∧ c.rx = none := fun c hc =>
      hquiet c (List.mem_of_mem_tail (by rwa [List.tail_take_eq_take_tail]))
    obtain ⟨t, hrun, hblock, hdraws, hinput, hout⟩ := ih (beginCycle s) hrest
    have houtputs : t.hostRvalid = false ∧ t.hostResult = 0#16 ∧ t.transportOpen = false ∧ t.events = [] := by
      rcases Nat.eq_zero_or_pos n with rfl | hn
      · cases hrun; exact ⟨rfl, rfl, rfl, rfl⟩
      · exact hout hn
    exact ⟨t, run_succ_next.mpr ⟨_, step_silent hrst hhost hrx, hrun⟩, (sameCore_beginCycle s).sameBlock.trans hblock,
      hdraws, by simpa using hinput, fun _ => houtputs⟩

theorem SameCore.trans {s t u : State} (h : SameCore s t) (h' : SameCore t u) : SameCore s u :=
  ⟨h.phase.trans h'.phase, h.pos.trans h'.pos, h.explen.trans h'.explen, h.buf.trans h'.buf, h.ready.trans h'.ready,
    h.junk.trans h'.junk, h.baudValid.trans h'.baudValid, h.draws.trans h'.draws⟩

/-- The cycles of a FRAME line, each with one byte on the RX port. -/
theorem inputOf_frame (bytes : List Nat) (ok : Bool) :
    inputOf (expandLine (.frame bytes)) ok = bytes.map fun n => ⟨false, none, some (BitVec.ofNat 8 n), ok⟩ := by
  simp [inputOf, expandLine, cycleOfIssue, cycleOfWord_encode_rxb]

/-- Cycles of one byte each, and the bytes fed one after the other from a state that differs only in what no RXB reads, leave
such states. -/
theorem run_bytes {bytes : List Nat} {ok : Bool} {s s' : State} (hinv : Inv s) (hcore : SameCore s s')
    (hinput : s.input = bytes.map fun n => ⟨false, none, some (BitVec.ofNat 8 n), ok⟩) :
    ∃ t u, Sys2Proof.core.run bytes.length s = .next t ∧ feed (bytes.map (BitVec.ofNat 8)) s' = .next u ∧
      SameCore t u := by
  induction bytes generalizing s s' with
  | nil => exact ⟨s, s', rfl, rfl, hcore⟩
  | cons n bytes ih =>
    obtain ⟨e, t, hout⟩ := exists_rxbOutcome (inv_beginCycle hinv) (BitVec.ofNat 8 n)
    have hstep : step s = .next t := (step_rx hinput).trans hout.run
    obtain ⟨t', hout', hcore'⟩ := hout.congr ((sameCore_beginCycle s).symm.trans hcore)
    have hrest := step_input hstep
    rw [hinput] at hrest
    obtain ⟨v, u, hrun, hfeed, hend⟩ := ih (everyStepKeepsTheInvariant s t hinv hstep) hcore' hrest
    exact ⟨v, u, run_succ_next.mpr ⟨t, hstep, hrun⟩, by rw [List.map_cons, feed_cons, hout'.run]; exact hfeed, hend⟩

/-- Settles O10: `run_bytes` on the cycles of the line. -/
theorem frameLineFeedsItsBytes : Obligations.FrameLineFeedsItsBytes := by
  unfold Obligations.FrameLineFeedsItsBytes
  intro bytes ok s hinv hinput
  obtain ⟨t, u, hrun, hfeed, hcore⟩ := run_bytes hinv (sameCore_refl s) (hinput.trans (inputOf_frame bytes ok))
  exact ⟨t, u, hrun, hfeed, hcore.sameBlock, hcore.draws⟩

/-! The position in IDLE -/

theorem SameCore.sameButIdleHidden {s t : State} (h : SameCore s t) (hports : SamePorts s t) : SameButIdleHidden s t where
  phase := h.phase
  hidden := fun _ => ⟨h.pos, h.explen⟩
  buf := h.buf
  ready := h.ready
  junk := h.junk
  baudValid := h.baudValid
  ports := hports
  draws := h.draws

theorem SameButIdleHidden.sameCore {s t : State} (h : SameButIdleHidden s t) (hcap : s.phase = .capturing) : SameCore s t :=
  ⟨h.phase, (h.hidden hcap).1, (h.hidden hcap).2, h.buf, h.ready, h.junk, h.baudValid, h.draws⟩

theorem SamePorts.trans {s t u : State} (h : SamePorts s t) (h' : SamePorts t u) : SamePorts s u :=
  ⟨h.hostRvalid.trans h'.hostRvalid, h.hostResult.trans h'.hostResult, h.transportOpen.trans h'.transportOpen,
    h.transportOpenOk.trans h'.transportOpenOk, h.input.trans h'.input⟩

theorem SamePorts.symm {s t : State} (h : SamePorts s t) : SamePorts t s :=
  ⟨h.hostRvalid.symm, h.hostResult.symm, h.transportOpen.symm, h.transportOpenOk.symm, h.input.symm⟩

/-- In CAPTURING a byte finds nothing hidden; in IDLE it sets the position and the expected length or leaves IDLE as it is. -/
theorem RxbOutcome.congr_idleHidden {b : Byte} {s t s' : State} {e : Event} (h : SameButIdleHidden s t)
    (hout : RxbOutcome b s e s') :
    ∃ t', RxbOutcome b t e t' ∧ SameButIdleHidden s' t' := by
  have hports : ∀ {t'}, RxbOutcome b t e t' → SamePorts s' t' :=
    fun hout' => hout.samePorts.symm.trans (h.ports.trans hout'.samePorts)
  cases hphase : s.phase with
  | capturing =>
    obtain ⟨t', hout', hcore⟩ := hout.congr (h.sameCore hphase)
    exact ⟨t', hout', hcore.sameButIdleHidden (hports hout')⟩
  | idle =>
    have hidle : t.phase = .idle := h.phase ▸ hphase
    cases hout with
    | start _ hb =>
      have hbuf : s.buf.write 0 b = t.buf.write 0 b := by rw [h.buf]
      have hout' := RxbOutcome.start hidle hb
      exact ⟨_, hout', ⟨rfl, fun _ => ⟨rfl, rfl⟩, hbuf, rfl, h.junk, h.baudValid, hports hout', h.draws⟩⟩
    | junk _ hb =>
      have hjunk : s.junk + 1#32 = t.junk + 1#32 := by rw [h.junk]
      have hout' := RxbOutcome.junk hidle hb
      exact ⟨_, hout', ⟨h.phase, h.hidden, h.buf, h.ready, hjunk, h.baudValid, hports hout', h.draws⟩⟩
    | lenAbort hcap | typeFilter hcap => cases hphase.symm.trans hcap
    | store hcap | frameOk hcap | crcFail hcap => cases hphase.symm.trans hcap.phase

theorem SameButIdleHidden.exists_eq {s t : State} (h : SameButIdleHidden s t) :
    ∃ pos explen events, t = { s with pos := pos, explen := explen, events := events } := by
  obtain ⟨_, _, _, _, _, _, _, _, _, _, _, _, _, _⟩ := t
  obtain ⟨rfl, -, rfl, rfl, rfl, rfl, ⟨rfl, rfl, rfl, rfl, rfl⟩, rfl⟩ := h
  exact ⟨_, _, _, rfl⟩

/-- No HOST operation reads the position or the expected length, and INIT returns to IDLE. -/
theorem SameButIdleHidden.afterHost {s t : State} (h : SameButIdleHidden s t) (i : Instr) :
    SameButIdleHidden (afterHost i s) (afterHost i t) := by
  have hhidden := h.hidden
  cases i with
  | rxb b => exact h
  | poll =>
    obtain ⟨_, _, _, rfl⟩ := h.exists_eq
    simp only [Machine.afterHost, afterPoll_eq]
    exact ⟨rfl, hhidden, rfl, rfl, rfl, rfl, ⟨rfl, rfl, rfl, rfl, rfl⟩, rfl⟩
  | rdch index =>
    obtain ⟨_, _, _, rfl⟩ := h.exists_eq
    exact ⟨rfl, hhidden, rfl, rfl, rfl, rfl, ⟨rfl, rfl, rfl, rfl, rfl⟩, rfl⟩
  | init =>
    obtain ⟨_, _, _, rfl⟩ := h.exists_eq
    exact ⟨rfl, nofun, rfl, rfl, rfl, rfl, ⟨rfl, rfl, rfl, rfl, rfl⟩, rfl⟩

theorem SameButIdleHidden.exec {s t s' : State} {i : Instr} (h : SameButIdleHidden s t) (hrun : exec i s = .next s') :
    ∃ t', exec i t = .next t' ∧ SameButIdleHidden s' t' := by
  obtain ⟨hagent, rfl⟩ | ⟨b, e, rfl, hout⟩ := exec_cases hrun
  · exact ⟨_, exec_host hagent t, h.afterHost i⟩
  · obtain ⟨t', hout', hrel⟩ := hout.congr_idleHidden h
    exact ⟨t', hout'.run, hrel⟩

theorem SameButIdleHidden.nextCycle {s t : State} (h : SameButIdleHidden s t) : nextCycle s = nextCycle t := by
  rw [Machine.nextCycle, Machine.nextCycle, h.ports.input, silentCycle, silentCycle, h.ports.transportOpenOk]

theorem SameButIdleHidden.beginCycle {s t : State} (h : SameButIdleHidden s t) :
    SameButIdleHidden (beginCycle s) (beginCycle t) where
  phase := h.phase
  hidden := h.hidden
  buf := h.buf
  ready := h.ready
  junk := h.junk
  baudValid := h.baudValid
  ports := ⟨rfl, rfl, rfl, congrArg Cycle.transportOpenOk h.nextCycle, congrArg List.tail h.ports.input⟩
  draws := h.draws

theorem SameButIdleHidden.initialise {s t : State} (h : SameButIdleHidden s t) :
    SameButIdleHidden (initialise s) (initialise t) where
  phase := rfl
  hidden := nofun
  buf := rfl
  ready := rfl
  junk := rfl
  baudValid := rfl
  ports := ⟨h.ports.hostRvalid, h.ports.hostResult, h.ports.transportOpen, h.ports.transportOpenOk, h.ports.input⟩
  draws := congrArg (· + 1) h.draws

/-- Settles O51: the two states take up the same cycle, and its reset or its operations leave two such states again. -/
theorem idlePositionIsUnobservable : Obligations.IdlePositionIsUnobservable := by
  unfold Obligations.IdlePositionIsUnobservable
  intro s t s' h hrun
  obtain ⟨hrst, rfl⟩ | ⟨hrst, u, hhost, hrx⟩ := step_next.mp hrun
  · exact ⟨_, step_reset (h.nextCycle ▸ hrst), h.beginCycle.initialise⟩
  simp only [h.nextCycle] at hrst hhost hrx
  obtain ⟨v, hhost', huv⟩ : ∃ v, runHost (nextCycle t).host (beginCycle t) = .next v ∧ SameButIdleHidden u v := by
    obtain ⟨hnone, rfl⟩ | ⟨w, i, hw, hdecode, hexec⟩ := runHost_next.mp hhost
    · exact ⟨_, runHost_next.mpr (.inl ⟨hnone, rfl⟩), h.beginCycle⟩
    · obtain ⟨v, hexec', huv⟩ := h.beginCycle.exec hexec
      exact ⟨v, runHost_next.mpr (.inr ⟨w, i, hw, hdecode, hexec'⟩), huv⟩
  obtain ⟨t', hrx', hrel⟩ : ∃ t', runRx (nextCycle t).rx v = .next t' ∧ SameButIdleHidden s' t' := by
    obtain ⟨hnone, rfl⟩ | ⟨b, hb, hbyte⟩ := runRx_next.mp hrx
    · exact ⟨v, runRx_next.mpr (.inl ⟨hnone, rfl⟩), huv⟩
    · obtain ⟨t', hexec, hrel⟩ := huv.exec (i := .rxb b) hbyte
      exact ⟨t', runRx_next.mpr (.inr ⟨b, hb, hexec⟩), hrel⟩
  exact ⟨t', step_next.mpr (.inr ⟨hrst, v, hhost', hrx'⟩), hrel⟩

/-! The draw -/

/-- A byte stored since the last draw does not show it. -/
theorem byteAt_of_stored {s : State} {k : Nat} (hk : (s.buf.read k).isSome) (d : Nat) :
    byteAt { s with draws := d } k = byteAt s k := by
  obtain ⟨b, hb⟩ := Option.isSome_iff_exists.mp hk
  simp [byteAt, hb]

/-- A completion's residue covers stored bytes alone. -/
theorem Captures.residue_withDraws {b : Byte} {s : State} (hinv : Inv s) (h : Captures b s)
    (hend : s.pos + 1#7 = explenAfter b s) (d : Nat) :
    residue (afterStore b { s with draws := d }) (explenAfter b s).toNat =
      residue (afterStore b s) (explenAfter b s).toNat := by
  obtain ⟨hlast, hpos⟩ := (h.ends_iff hinv).mp hend
  refine residue_congr fun k hk => byteAt_of_stored (isSome_read_afterStore hinv h.phase ?_) d
  rw [explenAfter_of_ne (by omega)] at hk
  omega

/-- From a state with another draw a byte has the same outcome and leaves the same state but for the draw. -/
theorem RxbOutcome.withDraws {b : Byte} {s t : State} {e : Event} (hinv : Inv s) (hout : RxbOutcome b s e t) (d : Nat) :
    RxbOutcome b { s with draws := d } e { t with draws := d } := by
  cases hout with
  | start hidle hb => exact .start hidle hb
  | junk hidle hb => exact .junk hidle hb
  | lenAbort hcap hpos hb => exact .lenAbort hcap hpos hb
  | typeFilter hcap hpos hb => exact .typeFilter hcap hpos hb
  | store hcap hmore => exact .store ⟨hcap.phase, hcap.inside, hcap.lengthOk, hcap.typeOk⟩ hmore
  | frameOk hcap hend hcrc =>
    exact .frameOk ⟨hcap.phase, hcap.inside, hcap.lengthOk, hcap.typeOk⟩ hend
      ((hcap.residue_withDraws hinv hend d).trans hcrc)
  | crcFail hcap hend hmax hcrc =>
    exact .crcFail ⟨hcap.phase, hcap.inside, hcap.lengthOk, hcap.typeOk⟩ hend hmax
      fun h => hcrc ((hcap.residue_withDraws hinv hend d).symm.trans h)

/-- Settles O53: a byte by `RxbOutcome.withDraws`; a channel below the expected length is two stored bytes. -/
theorem drawShowsOnlyPastTheFrame : Obligations.DrawShowsOnlyPastTheFrame := by
  unfold Obligations.DrawShowsOnlyPastTheFrame
  intro s d hinv
  refine ⟨fun b t hrun => ?_, fun index t hready hindex hshort hrun => ?_⟩
  · obtain ⟨e, hout⟩ := rxbOutcome_of_next hrun
    exact (hout.withDraws hinv d).run
  · obtain ⟨-, -, -, -, -, -, hstored⟩ := hinv.readyFrame hready
    have hraw : channelRaw { s with draws := d } index = channelRaw s index :=
      channelRaw_congr (byteAt_of_stored (hstored _ (by omega)) d) (byteAt_of_stored (hstored _ hshort) d)
    rw [exec_rdch, execRdch_consume hindex hready] at hrun
    have hrun' := execRdch_consume (s := { s with draws := d }) hindex hready
    rw [hraw] at hrun'
    rw [exec_rdch, hrun', ← Host.Outcome.next.inj hrun]
    rfl

/-! The RX agent's silence -/

/-- What the premise says of the cycles to come: no reset, no INIT that opens, and no byte after the INIT that failed. -/
def KeptSilent (cs : List Cycle) : Prop :=
  rxDuty true cs = true ∧ ∀ c ∈ cs, c.rst = false ∧ initOpens c = false

/-- Such a cycle has no byte and no reset, and leaves the silence in place. -/
theorem keptSilent_cons {c : Cycle} {cs : List Cycle} (h : KeptSilent (c :: cs)) :
    c.rst = false ∧ c.rx = none ∧ KeptSilent cs := by
  obtain ⟨hduty, hcycles⟩ := h
  obtain ⟨⟨hrst, hopens⟩, hrest⟩ := List.forall_mem_cons.mp hcycles
  have hsilent : c.rx.isNone = true ∧ rxDuty true cs = true := by
    simpa [rxDuty, hrst, hopens] using hduty
  exact ⟨hrst, Option.isNone_iff_eq_none.mp hsilent.1, hsilent.2, hrest⟩

theorem KeptSilent.next {s : State} (h : KeptSilent s.input) :
    (nextCycle s).rst = false ∧ (nextCycle s).rx = none ∧ KeptSilent s.input.tail := by
  cases hinput : s.input with
  | nil => exact ⟨by rw [nextCycle, hinput]; rfl, by rw [nextCycle, hinput]; rfl, by rw [hinput] at h; exact h⟩
  | cons c rest =>
    rw [nextCycle_of_input hinput]
    exact keptSilent_cons (hinput ▸ h)

/-- A step of such a cycle makes no frame ready: only a byte could. -/
theorem step_notReady {s t : State} (hready : s.ready = false) (h : KeptSilent s.input) (hrun : step s = .next t) :
    t.ready = false := by
  obtain ⟨hrst, hrx, -⟩ := h.next
  obtain ⟨hreset, -⟩ | ⟨-, u, hhost, hbyte⟩ := step_next.mp hrun
  · cases hrst.symm.trans hreset
  rw [hrx] at hbyte
  cases hbyte
  obtain ⟨-, rfl⟩ | ⟨w, i, -, hdecode, hexec⟩ := runHost_next.mp hhost
  · exact hready
  · cases (exec_host (decodeHost_ok.mp hdecode).2 _).symm.trans hexec
    exact Bool.eq_false_iff.mpr fun hset => Bool.false_ne_true (hready.symm.trans (afterHost_ready (s := beginCycle s) i hset))

/-- Settles O54: by induction on the number of cycles, none of which makes a frame ready; a read without one returns 0. -/
theorem unopenedTransportLeavesNothingToRead : Obligations.UnopenedTransportLeavesNothingToRead := by
  unfold Obligations.UnopenedTransportLeavesNothingToRead
  intro n s t hready hduty hcycles hrun
  have ht : t.ready = false := by
    have hsilent : KeptSilent s.input := ⟨hduty, hcycles⟩
    clear hduty hcycles
    induction n generalizing s with
    | zero => cases hrun; exact hready
    | succ n ih =>
      obtain ⟨u, hstep, hrest⟩ := run_succ_next.mp hrun
      obtain ⟨-, -, htail⟩ := hsilent.next
      exact ih u (step_notReady hready hsilent hstep) hrest (step_input hstep ▸ htail)
  exact ⟨ht, fun index => ⟨_, execRdch_next index t, rdchResult_of_notReady ht⟩⟩

end Sys2Proof.Machine
end

section
/-! PROOFS. The CRC (spec/42_crc_validator.md): the shifts of the update are linear, so that the update splits
into what the register's two bytes and the message byte bring to it; then the obligations O29 and O30. -/

namespace Sys2Proof.Machine

/-- A shift without its test: the generator is added where the lowest bit is set (R141). -/
theorem crcShift_eq (c : CrcReg) : crcShift c = (c >>> 1) ^^^ (if c.getLsbD 0 then Config.crcPolyReflected else 0#16) := by
  unfold crcShift
  split <;> simp

/-- A shift is linear over exclusive-or. -/
theorem crcShift_xor (x y : CrcReg) : crcShift (x ^^^ y) = crcShift x ^^^ crcShift y := by
  have hpoly : ∀ a b : Bool, (if a ^^ b then Config.crcPolyReflected else 0#16) =
      (if a then Config.crcPolyReflected else 0#16) ^^^ (if b then Config.crcPolyReflected else 0#16) := by decide
  simp only [crcShift_eq, BitVec.ushiftRight_xor_distrib, BitVec.getLsbD_xor, hpoly]
  ac_rfl

theorem crcShifts_xor (n : Nat) (x y : CrcReg) : crcShifts n (x ^^^ y) = crcShifts n x ^^^ crcShifts n y := by
  induction n generalizing x y with
  | zero => rfl
  | succ n ih => rw [crcShifts, crcShift_xor, ih, crcShifts, crcShifts]

/-- While no low bit is set the shifts only shift. -/
theorem crcShifts_of_low_zero (n : Nat) (c : CrcReg) (h : ∀ i < n, c.getLsbD i = false) : crcShifts n c = c >>> n := by
  induction n generalizing c with
  | zero => rw [crcShifts, BitVec.ushiftRight_zero]
  | succ n ih =>
    have hshift : crcShift c = c >>> 1 := by rw [crcShift, h 0 (Nat.succ_pos n), if_neg Bool.false_ne_true]
    rw [crcShifts, hshift, ih _ fun i hi => by rw [BitVec.getLsbD_ushiftRight]; exact h (1 + i) (by omega),
      ← BitVec.shiftRight_add, Nat.add_comm]

/-- A register made of its two bytes. -/
def crcWord (high low : Byte) : CrcReg := high ++ low

@[simp] theorem extractLsb'_high_crcWord (high low : Byte) : (crcWord high low).extractLsb' 8 8 = high :=
  BitVec.extractLsb'_append_eq_left

@[simp] theorem extractLsb'_low_crcWord (high low : Byte) : (crcWord high low).extractLsb' 0 8 = low :=
  BitVec.extractLsb'_append_eq_right

theorem crcWord_bytes (c : CrcReg) : crcWord (c.extractLsb' 8 8) (c.extractLsb' 0 8) = c :=
  BitVec.extractLsb'_append_extractLsb' (w := 8) (len := 8) (x := c)

theorem toNat_crcWord (high low : Byte) : (crcWord high low).toNat = 256 * high.toNat + low.toNat := by
  refine (BitVec.toNat_append high low).trans ?_
  rw [← Nat.shiftLeft_add_eq_or_of_lt low.isLt, Nat.shiftLeft_eq]
  omega

theorem crcWord_xor (high low high' low' : Byte) :
    crcWord high low ^^^ crcWord high' low' = crcWord (high ^^^ high') (low ^^^ low') :=
  BitVec.xor_append

theorem setWidth_eq_crcWord (b : Byte) : b.setWidth Config.crcWidth = crcWord 0#8 b :=
  BitVec.setWidth_eq_append (by decide)

/-- Eight shifts move a high byte down. -/
theorem crcShifts_high (high : Byte) : crcShifts 8 (crcWord high 0#8) = crcWord 0#8 high := by
  have hlow : ∀ i < 8, (crcWord high 0#8).getLsbD i = false := fun i hi =>
    BitVec.getLsbD_append.trans (by rw [if_pos hi, BitVec.getLsbD_zero])
  rw [crcShifts_of_low_zero 8 _ hlow]
  refine BitVec.eq_of_toNat_eq ?_
  rw [BitVec.toNat_ushiftRight, toNat_crcWord, toNat_crcWord, Nat.shiftRight_eq_div_pow]
  simp

/-- The high byte of the register comes out as the low one; its low byte acts as part of the message byte (R141). -/
theorem crcUpdate_crcWord (high low b : Byte) :
    crcUpdate (crcWord high low) b = crcWord 0#8 high ^^^ crcUpdate 0#16 (b ^^^ low) := by
  have hword : crcWord high low ^^^ crcWord 0#8 b = crcWord high 0#8 ^^^ crcWord 0#8 (b ^^^ low) := by
    rw [crcWord_xor, crcWord_xor, BitVec.zero_xor, BitVec.xor_comm low b]
  rw [crcUpdate, setWidth_eq_crcWord, hword, crcShifts_xor, crcShifts_high, crcUpdate, setWidth_eq_crcWord, BitVec.zero_xor]

/-- What a message byte brings to the register, by the byte form (R142). -/
def crcByteTerm (x : Byte) : CrcReg :=
  let d : Byte := x ^^^ (x <<< 4)
  (crcWord d 0#8 ^^^ (d >>> 4).setWidth Config.crcWidth) ^^^ (d.setWidth Config.crcWidth <<< 3)

/-- The byte form splits in the same way (R142). -/
theorem crcUpdateByteForm_crcWord (high low b : Byte) :
    crcUpdateByteForm (crcWord high low) b = crcWord 0#8 high ^^^ crcByteTerm (b ^^^ low) := by
  have hhigh : (crcWord high low).extractLsb' 8 (Config.crcWidth - 8) = high := extractLsb'_high_crcWord high low
  have hsplit : ∀ d : Byte, (d ++ high : CrcReg) = crcWord 0#8 high ^^^ crcWord d 0#8 := fun d => by
    rw [crcWord_xor, BitVec.zero_xor, BitVec.xor_zero, crcWord]
  simp only [crcUpdateByteForm, extractLsb'_low_crcWord, hhigh, crcByteTerm, hsplit]
  ac_rfl

/-- The eight shifts bring the same: a fact about the 256 bytes. -/
theorem crcUpdate_zero_eq : ∀ x : Byte, crcUpdate 0#16 x = crcByteTerm x := by
  decide +kernel

/-- Settles O29: both forms split into the register's high byte and the same term of the message byte and the low one. -/
theorem crcFormsAgree : Obligations.CrcFormsAgree := by
  unfold Obligations.CrcFormsAgree
  intro c b
  rw [← crcWord_bytes c, crcUpdateByteForm_crcWord, crcUpdate_crcWord, crcUpdate_zero_eq]

theorem crcFrom_append (c : CrcReg) (xs ys : List Byte) : crcFrom c (xs ++ ys) = crcFrom (crcFrom c xs) ys := by
  induction xs generalizing c with
  | nil => rfl
  | cons b xs ih => exact ih (crcUpdate c b)

/-- The register's own low byte moves the high byte down and adds nothing. -/
theorem crcUpdate_own_low (high low : Byte) : crcUpdate (crcWord high low) low = crcWord 0#8 high := by
  have hzero : crcUpdate 0#16 0#8 = 0#16 := by decide
  rw [crcUpdate_crcWord, BitVec.xor_self, hzero, BitVec.xor_zero]

/-- The register's own two bytes, low byte first, bring it to zero (R145). -/
theorem crcFrom_own_bytes (c : CrcReg) : crcFrom c [c.extractLsb' 0 8, c.extractLsb' 8 8] = 0#16 := by
  rw [← crcWord_bytes c]
  simp only [crcFrom, extractLsb'_low_crcWord, extractLsb'_high_crcWord, crcUpdate_own_low]
  rfl

/-- Settles O30: a trailer is the register's own two bytes. -/
theorem trailerBringsResidueToZero : Obligations.TrailerBringsResidueToZero := by
  unfold Obligations.TrailerBringsResidueToZero
  have hall : ∀ (c : CrcReg) (m : List Byte),
      crcFrom c (m ++ [(crcFrom c m).extractLsb' 0 8, (crcFrom c m).extractLsb' 8 8]) = 0#16 :=
    fun c m => (crcFrom_append c m _).trans (crcFrom_own_bytes _)
  exact ⟨fun m => hall Config.crcInit m, hall⟩

end Sys2Proof.Machine
end

section
/-! PROOFS. Single-bit errors (spec/42_crc_validator.md, R147): the update is one-to-one in the register and in the message
byte, so that a sequence with one byte changed has another CRC. -/

namespace Sys2Proof.Machine

/-- The generator's highest bit is set, so the highest bit of a shift is the bit shifted out. -/
theorem crcShift_getLsbD_last (c : CrcReg) : (crcShift c).getLsbD 15 = c.getLsbD 0 := by
  have hpoly : ∀ a : Bool, (if a then Config.crcPolyReflected else 0#16).getLsbD 15 = a := by decide
  rw [crcShift_eq, BitVec.getLsbD_xor, BitVec.getLsbD_ushiftRight, hpoly, BitVec.getLsbD_of_ge _ _ (by decide),
    Bool.false_xor]

theorem crcShift_injective : Function.Injective crcShift := by
  intro x y h
  have hlow : x.getLsbD 0 = y.getLsbD 0 := by rw [← crcShift_getLsbD_last, ← crcShift_getLsbD_last, h]
  have hrest : x >>> 1 = y >>> 1 := by
    rw [crcShift_eq, crcShift_eq, hlow] at h
    exact (BitVec.xor_left_inj _).mp h
  refine BitVec.eq_of_getLsbD_eq fun i _ => ?_
  cases i with
  | zero => exact hlow
  | succ i =>
    have hbit := congrArg (BitVec.getLsbD · i) hrest
    simpa only [BitVec.getLsbD_ushiftRight, Nat.add_comm 1 i] using hbit

theorem crcShifts_injective (n : Nat) : Function.Injective (crcShifts n) := by
  induction n with
  | zero => exact fun _ _ => id
  | succ n ih => exact fun _ _ h => crcShift_injective (ih h)

/-- Different message bytes give different registers. -/
theorem crcUpdate_injective_byte (c : CrcReg) : Function.Injective (crcUpdate c) := by
  intro b b' h
  have hwide := (BitVec.xor_right_inj c).mp (crcShifts_injective 8 h)
  rw [setWidth_eq_crcWord, setWidth_eq_crcWord] at hwide
  simpa using congrArg (BitVec.extractLsb' 0 8) hwide

/-- Different registers stay different under the same message. -/
theorem crcFrom_injective (bytes : List Byte) : Function.Injective (crcFrom · bytes) := by
  induction bytes with
  | nil => exact fun _ _ => id
  | cons b bytes ih => exact fun _ _ h => (BitVec.xor_left_inj _).mp (crcShifts_injective 8 (ih h))

/-- A sequence with one byte changed has another CRC. -/
theorem crcFrom_modify_ne {g : Byte → Byte} (hg : ∀ b, g b ≠ b) {bytes : List Byte} {j : Nat} (hj : j < bytes.length)
    (c : CrcReg) : crcFrom c (bytes.modify j g) ≠ crcFrom c bytes := by
  induction bytes generalizing c j with
  | nil => cases hj
  | cons b bytes ih =>
    cases j with
    | zero => exact fun h => hg b (crcUpdate_injective_byte c (crcFrom_injective bytes h))
    | succ j => exact ih (Nat.lt_of_succ_lt_succ hj) (crcUpdate c b)

/-- Flipping a bit changes a byte. -/
theorem flip_ne {i : Nat} (hi : i < 8) (b : Byte) : b ^^^ (1#8 <<< i) ≠ b := by
  intro h
  have hbit := congrArg (BitVec.getLsbD · i) h
  simp [hi] at hbit

end Sys2Proof.Machine
end

section
/-! PROOFS. Sequences of bytes (spec/41_frame_assembler.md, spec/95_test_vectors.md): bytes in IDLE, a frame's bytes one by one,
and the frame as a whole; then the obligations O24 to O28 and O31. -/

namespace Sys2Proof.Machine

theorem feed_append (xs ys : List Byte) (s : State) : feed (xs ++ ys) s = andThen (feed xs s) (feed ys) := by
  induction xs generalizing s with
  | nil => rfl
  | cons b xs ih =>
    rw [List.cons_append, feed_cons, feed_cons]
    cases execRxb b s with
    | next t => exact ih t
    | fault r | refused r => rfl

theorem feed_singleton (b : Byte) (s : State) : feed [b] s = execRxb b s := by
  rw [feed_cons]
  cases execRxb b s <;> rfl

/-- A sequence fed up to a byte, and then that byte. -/
theorem feed_take_succ {f : List Byte} {n : Nat} (hn : n < f.length) {s t : State} (h : feed (f.take n) s = .next t) :
    feed (f.take (n + 1)) s = execRxb f[n] t := by
  rw [← List.take_append_getElem hn, feed_append, h]
  exact feed_singleton _ t

/-! Junk -/

/-- The state after `n` bytes discarded in IDLE (R102). -/
def afterJunk (n : Nat) (s : State) : State :=
  { s with junk := s.junk + BitVec.ofNat 32 n, events := s.events ++ List.replicate n .junk }

theorem afterJunk_zero (s : State) : afterJunk 0 s = s := by
  simp [afterJunk]

theorem afterJunk_succ (n : Nat) (s : State) : afterJunk n (emit .junk (addJunk 1 s)) = afterJunk (n + 1) s := by
  simp [afterJunk, emit, addJunk, BitVec.add_assoc, ← BitVec.ofNat_add, Nat.add_comm, List.replicate_succ]

theorem samePorts_afterJunk (n : Nat) (s : State) : SamePorts s (afterJunk n s) := ⟨rfl, rfl, rfl, rfl, rfl⟩

/-- Bytes with no start marker among them, fed in IDLE, are counted and labelled each once, and change nothing else. -/
theorem feed_eq_afterJunk {bytes : List Byte} {s : State} (hidle : s.phase = .idle) (hbytes : ∀ b ∈ bytes, b ≠ 0x3E#8) :
    feed bytes s = .next (afterJunk bytes.length s) := by
  induction bytes generalizing s with
  | nil => exact congrArg _ (afterJunk_zero s).symm
  | cons b bytes ih =>
    obtain ⟨hb, hrest⟩ := List.forall_mem_cons.mp hbytes
    have hnext := ih (s := emit .junk (addJunk 1 s)) hidle hrest
    rw [afterJunk_succ] at hnext
    rw [feed_cons, execRxb_junk hidle hb]
    exact hnext

/-- Settles O24: `feed_eq_afterJunk`. -/
theorem junkBytesAreCountedEachOnce : Obligations.JunkBytesAreCountedEachOnce := by
  unfold Obligations.JunkBytesAreCountedEachOnce
  intro bytes s hidle hbytes
  exact ⟨_, feed_eq_afterJunk hidle hbytes, hidle, rfl, fun _ => rfl, rfl, rfl, rfl, rfl,
    samePorts_afterJunk _ _, rfl⟩

/-! The bytes of a candidate -/

/-- After the first `n` bytes of `f`, fed from `s` in IDLE: a candidate of these bytes, nothing else changed but the labels. -/
structure FedPrefix (f : List Byte) (n : Nat) (s t : State) : Prop where
  phase : t.phase = .capturing
  pos : t.pos.toNat = n
  explen : t.explen.toNat = if n ≤ 2 then 7 else f.length
  bytes : ∀ k, byteAt t k = (f.take n)[k]?.getD (byteAt s k)
  ready : t.ready = false
  junk : t.junk = s.junk
  baudValid : t.baudValid = s.baudValid
  ports : SamePorts s t
  draws : t.draws = s.draws

/-- The length byte of `f` is in range and tells its length. -/
def LengthByte (f : List Byte) : Prop := 7 ≤ f.length ∧ f.length ≤ 70 ∧ f[2]?.map BitVec.toNat = some f.length

theorem LengthByte.getElem {f : List Byte} (h : LengthByte f) (hn : 2 < f.length) : f[2].toNat = f.length := by
  obtain ⟨-, -, hlen⟩ := h
  simpa [hn] using hlen

/-- The list read of one more byte. -/
theorem getElem?_take_succ_getD {f : List Byte} {n : Nat} (hn : n < f.length) (k : Nat) (d : Byte) :
    (f.take (n + 1))[k]?.getD d = if k = n then f[n] else (f.take n)[k]?.getD d := by
  rw [List.getElem?_take, List.getElem?_take]
  by_cases hk : k = n
  · simp [hk, hn]
  · simp [hk, show k < n + 1 ↔ k < n by omega]

/-- The start marker begins the candidate. -/
theorem fedPrefix_one {f : List Byte} {s : State} (hidle : s.phase = .idle) (hstart : f[0]? = some 0x3E#8) :
    ∃ t, feed (f.take 1) s = .next t ∧ FedPrefix f 1 s t := by
  obtain ⟨hlen, hfirst⟩ := List.getElem?_eq_some_iff.mp hstart
  have hout := RxbOutcome.start hidle (b := 0x3E#8) rfl
  have hrun := feed_take_succ hlen (s := s) (t := s) rfl
  rw [hfirst, hout.run] at hrun
  refine ⟨_, hrun, rfl, rfl, rfl, fun k => ?_, rfl, rfl, rfl, hout.samePorts, rfl⟩
  rw [getElem?_take_succ_getD hlen, hfirst]
  split
  next hk => exact hk ▸ byteAt_write_same s 0 _
  next hk => simpa using hout.sameBytesBut_zero hidle k hk

/-- A byte of the frame before its last one, its header in order as far as it has come, is captured. -/
theorem FedPrefix.captures {f : List Byte} {n : Nat} {s t : State} (h : FedPrefix f n s t) (hn : n < f.length) (hmax : n < 70)
    (hlen : 2 ≤ n → LengthByte f) (htype : 4 ≤ n → f[4]? = some 0x31#8) : Captures f[n] t where
  phase := h.phase
  inside := h.pos ▸ hmax
  lengthOk hpos := by
    obtain rfl : n = 2 := h.pos.symm.trans hpos
    obtain ⟨hmin, hmax, -⟩ := hlen le_rfl
    rw [(hlen le_rfl).getElem hn]
    exact ⟨hmin, hmax⟩
  typeOk hpos := by
    obtain rfl : n = 4 := h.pos.symm.trans hpos
    exact (List.getElem?_eq_some_iff.mp (htype le_rfl)).2

/-- The expected length after the next byte is 7 until the length byte has come, then the frame's. -/
theorem FedPrefix.explenAfter_eq {f : List Byte} {n : Nat} {s t : State} (h : FedPrefix f n s t) (hn : n < f.length)
    (hlen : 2 ≤ n → LengthByte f) : (explenAfter f[n] t).toNat = if n + 1 ≤ 2 then 7 else f.length := by
  by_cases hpos : n = 2
  · subst hpos
    have hvalue := (hlen le_rfl).getElem hn
    obtain ⟨-, hmax, -⟩ := hlen le_rfl
    rw [explenAfter_of_eq h.pos, lengthOf_toNat (by omega), hvalue]
    rfl
  · rw [explenAfter_of_ne (by rwa [h.pos]), h.explen]
    simp [show n ≤ 2 ↔ n + 1 ≤ 2 by omega]

theorem FedPrefix.byteAt_stored {f : List Byte} {n : Nat} {s t : State} (h : FedPrefix f n s t) (hn : n < f.length) (k : Nat) :
    byteAt (afterStore f[n] t) k = (f.take (n + 1))[k]?.getD (byteAt s k) := by
  rw [byteAt_afterStore, h.pos, h.bytes, getElem?_take_succ_getD hn]

theorem FedPrefix.next_bytes {f : List Byte} {n : Nat} {s t u : State} {e : Event} (h : FedPrefix f n s t) (hn : n < f.length)
    (hout : RxbOutcome f[n] t e u) (k : Nat) : byteAt u k = (f.take (n + 1))[k]?.getD (byteAt s k) :=
  (byteAt_congr (t := afterStore f[n] t) (hout.buf_eq h.phase) hout.draws_eq k).trans (h.byteAt_stored hn k)

/-- A byte of the frame before its last one continues the candidate. -/
theorem FedPrefix.succ {f : List Byte} {n : Nat} {s t : State} (h : FedPrefix f n s t) (h1 : 1 ≤ n) (hn : n + 1 < f.length)
    (hmax : n + 1 < 70) (hlen : 2 ≤ n → LengthByte f) (htype : 4 ≤ n → f[4]? = some 0x31#8) :
    ∃ u, execRxb f[n] t = .next u ∧ FedPrefix f (n + 1) s u := by
  have hcap := h.captures (by omega) (by omega) hlen htype
  have hexplen := h.explenAfter_eq (by omega) hlen
  have hpos : (t.pos + 1#7).toNat = n + 1 := by
    have := h.pos
    bv_omega
  have hmore : t.pos + 1#7 ≠ explenAfter f[n] t := fun hend => by
    rw [← hend, hpos] at hexplen
    split at hexplen <;> omega
  have hout := RxbOutcome.store hcap hmore
  exact ⟨_, hout.run, h.phase, hpos, hexplen, h.next_bytes (by omega) hout, h.ready, h.junk, h.baudValid,
    h.ports.trans hout.samePorts, h.draws⟩

/-- A frame fed up to any byte before its last one, its header in order as far as it has come. -/
theorem feed_take {f : List Byte} {s : State} (hidle : s.phase = .idle) (hstart : f[0]? = some 0x3E#8) {n : Nat} (h1 : 1 ≤ n)
    (hn : n < f.length) (hmax : n < 70) (hlen : 2 < n → LengthByte f) (htype : 4 < n → f[4]? = some 0x31#8) :
    ∃ t, feed (f.take n) s = .next t ∧ FedPrefix f n s t := by
  induction n, h1 using Nat.le_induction with
  | base => exact fedPrefix_one hidle hstart
  | succ n h1 ih =>
    obtain ⟨t, hfeed, hprefix⟩ := ih (by omega) (by omega) (fun h => hlen (by omega)) (fun h => htype (by omega))
    obtain ⟨u, hrun, hnext⟩ := hprefix.succ h1 hn hmax (fun h => hlen (by omega)) (fun h => htype (by omega))
    exact ⟨u, (feed_take_succ (by omega) hfeed).trans hrun, hnext⟩

/-! Whole frames -/

/-- After the whole frame `f`, fed from `s` in IDLE (R106, R107, R115). -/
structure FedFrame (f : List Byte) (s t : State) : Prop where
  phase : t.phase = .idle
  pos : t.pos.toNat = f.length
  explen : t.explen.toNat = f.length
  bytes : ∀ k, byteAt t k = f[k]?.getD (byteAt s k)
  passes : crc16 f = 0#16 → t.ready = true ∧ t.baudValid = true ∧ t.junk = s.junk
  fails : crc16 f ≠ 0#16 → t.ready = false ∧ t.baudValid = s.baudValid ∧ t.junk = s.junk + BitVec.ofNat 32 f.length
  ports : SamePorts s t
  draws : t.draws = s.draws

theorem lengthByte_of_frameShape {f : List Byte} (hf : frameShape f) : LengthByte f := by
  obtain ⟨hmin, hmax, -, hlen, -⟩ := hf
  exact ⟨hmin, hmax, hlen⟩

/-- The last byte of a frame completes the candidate, and the CRC of the frame decides. -/
theorem FedPrefix.complete {f : List Byte} {n : Nat} {s t : State} (h : FedPrefix f n s t) (hf : frameShape f)
    (hlast : n + 1 = f.length) : ∃ u, execRxb f[n] t = .next u ∧ FedFrame f s u := by
  have hlen := lengthByte_of_frameShape hf
  obtain ⟨hmin, hmax, -, -, htype⟩ := hf
  have hcap := h.captures (by omega) (by omega) (fun _ => hlen) (fun _ => htype)
  have hexplen : (explenAfter f[n] t).toNat = f.length := by
    rw [h.explenAfter_eq (by omega) (fun _ => hlen), if_neg (by omega)]
  have hend : t.pos + 1#7 = explenAfter f[n] t := by
    have := h.pos
    bv_omega
  have hbytes : (List.range f.length).map (byteAt (afterStore f[n] t)) = f := by
    refine List.ext_getElem (by simp) fun k _ hk => ?_
    simp [h.byteAt_stored (show n < f.length by omega), hlast, hk]
  have hres : residue (afterStore f[n] t) (explenAfter f[n] t).toNat = some (crc16 f) := by
    rw [hexplen, residue_eq_crc16 hmax, hbytes]
  have hread : ∀ {u e}, RxbOutcome f[n] t e u → ∀ k, byteAt u k = f[k]?.getD (byteAt s k) := fun hout k => by
    rw [h.next_bytes (by omega) hout, hlast, List.take_length]
  by_cases hcrc : crc16 f = 0#16
  · have hout := RxbOutcome.frameOk hcap hend (by rw [hres, hcrc])
    exact ⟨_, hout.run, rfl, hexplen, hexplen, hread hout, fun _ => ⟨rfl, rfl, h.junk⟩, fun hne => absurd hcrc hne,
      h.ports.trans hout.samePorts, h.draws⟩
  · have hout := RxbOutcome.crcFail hcap hend (by rwa [hexplen]) (by simpa [hres] using hcrc)
    have hjunk : t.junk + BitVec.ofNat 32 (explenAfter f[n] t).toNat = s.junk + BitVec.ofNat 32 f.length := by
      rw [hexplen, h.junk]
    exact ⟨_, hout.run, rfl, hexplen, hexplen, hread hout, fun heq => absurd heq hcrc,
      fun _ => ⟨h.ready, h.baudValid, hjunk⟩, h.ports.trans hout.samePorts, h.draws⟩

/-- A whole frame fed from IDLE. -/
theorem feed_frame {f : List Byte} {s : State} (hf : frameShape f) (hidle : s.phase = .idle) :
    ∃ t, feed f s = .next t ∧ FedFrame f s t := by
  have hlen := lengthByte_of_frameShape hf
  obtain ⟨hmin, hmax, hstart, -, htype⟩ := id hf
  obtain ⟨n, hn⟩ : ∃ n, n + 1 = f.length := ⟨f.length - 1, by omega⟩
  obtain ⟨t, hfeed, hprefix⟩ := feed_take hidle hstart (n := n) (by omega) (by omega) (by omega)
    (fun _ => hlen) (fun _ => htype)
  obtain ⟨u, hrun, hframe⟩ := hprefix.complete hf hn
  have hall := (feed_take_succ (by omega) hfeed).trans hrun
  rw [hn, List.take_length] at hall
  exact ⟨u, hall, hframe⟩

/-- Settles O25: `feed_frame`, its bytes below and from the frame's length on. -/
theorem wholeFrameFedFromIdle : Obligations.WholeFrameFedFromIdle := by
  unfold Obligations.WholeFrameFedFromIdle
  intro f s hf hidle
  obtain ⟨t, hfeed, h⟩ := feed_frame hf hidle
  have hbelow : ∀ (k : Nat) (hk : k < f.length), byteAt t k = f[k] := fun k hk => by simp [h.bytes, hk]
  have habove : ∀ k, f.length ≤ k → byteAt t k = byteAt s k := fun k hk => by simp [h.bytes, hk]
  exact ⟨t, hfeed, h.phase, h.pos, h.explen, hbelow, habove, h.passes, h.fails, h.ports, h.draws⟩

/-- Settles O26: the frame is ready, and the buffer reads its bytes with the earlier ones past them. -/
theorem firstReadReturnsTheFramesChannel : Obligations.FirstReadReturnsTheFramesChannel := by
  unfold Obligations.FirstReadReturnsTheFramesChannel
  intro f s index hf hcrc hidle hindex byteOf raw
  obtain ⟨t, hfeed, h⟩ := feed_frame hf hidle
  obtain ⟨hready, -, -⟩ := h.passes hcrc
  have hraw : channelRaw t index = raw := by rw [channelRaw, h.bytes, h.bytes]
  have hresult := resultWord_channel_toNat t index
  rw [hraw] at hresult
  exact ⟨t, _, hfeed, execRdch_consume hindex hready, rfl, by rw [answer_hostResult, hraw, hresult], rfl⟩

/-- Settles O27: four bytes are captured, the type byte ends the candidate, and the rest are junk. -/
theorem filteredFrameIsCountedFromOffsetFive : Obligations.FilteredFrameIsCountedFromOffsetFive := by
  unfold Obligations.FilteredFrameIsCountedFromOffsetFive
  intro f s hidle hmin hmax hstart hlen htype hjunk
  obtain ⟨t, hfeed, h⟩ := feed_take hidle hstart (n := 4) (by omega) (by omega) (by omega)
    (fun _ => ⟨hmin, hmax, hlen⟩) (by omega)
  have hother : f[4] ≠ 0x31#8 := fun heq => htype (List.getElem?_eq_some_iff.mpr ⟨_, heq⟩)
  have hout := RxbOutcome.typeFilter h.phase h.pos hother
  have hrest := feed_eq_afterJunk (s := emit .typeFilter { afterStore f[4] t with phase := .idle }) rfl hjunk
  have hall := feed_append (f.take 5) (f.drop 5) s
  rw [List.take_append_drop, feed_take_succ (by omega) hfeed, hout.run] at hall
  have hpos : t.pos = 4#7 := BitVec.eq_of_toNat_eq h.pos
  have hcount : t.junk + BitVec.ofNat 32 (f.drop 5).length = s.junk + BitVec.ofNat 32 (f.length - 5) := by
    rw [h.junk, List.length_drop]
  exact ⟨_, hall.trans hrest, rfl, hpos, h.explen, h.ready, h.baudValid, hcount,
    h.ports.trans (hout.samePorts.trans (samePorts_afterJunk _ _))⟩

/-- Settles O28: two bytes are captured, the length byte aborts the candidate, and the frame that follows is fed from IDLE. -/
theorem frameAfterABadLengthIsReceived : Obligations.FrameAfterABadLengthIsReceived := by
  unfold Obligations.FrameAfterABadLengthIsReceived
  intro x n f s hidle hn hf hcrc
  obtain ⟨v, hfeed, h⟩ := feed_take (f := [0x3E#8, x, n]) hidle rfl (n := 2) (by decide) (by simp) (by decide)
    (by omega) (by omega)
  have hout := RxbOutcome.lenAbort h.phase h.pos hn
  have habort := (feed_take_succ (f := [0x3E#8, x, n]) (n := 2) (by simp) hfeed).trans hout.run
  obtain ⟨u, hframe, hu⟩ := feed_frame (s := emit .lenAbort { afterStore n v with phase := .idle }) hf rfl
  obtain ⟨hready, -, hjunk⟩ := hu.passes hcrc
  have hpos : v.pos = 2#7 := BitVec.eq_of_toNat_eq h.pos
  have hbytes : ∀ k, 2 < k → byteAt (emit .lenAbort { afterStore n v with phase := .idle }) k = byteAt s k := fun k hk => by
    rw [h.next_bytes (f := [0x3E#8, x, n]) (by simp) hout, List.getElem?_eq_none (by simp; omega), Option.getD_none]
  exact ⟨_, u, habort, rfl, hpos, h.junk, h.ready, hbytes, hframe, hready, hjunk.trans h.junk⟩

/-- A change at an offset other than 0, 2 and 4 leaves the shape of a frame. -/
theorem frameShape_modify {f : List Byte} (hf : frameShape f) {j : Nat} (h0 : j ≠ 0) (h2 : j ≠ 2) (h4 : j ≠ 4)
    (g : Byte → Byte) : frameShape (f.modify j g) := by
  simpa [frameShape, List.getElem?_modify_ne, h0, h2, h4] using hf

/-- Settles O31: a flipped bit changes one byte, hence the CRC; with the frame's shape kept, the CRC decides. -/
theorem singleBitErrorIsDetected : Obligations.SingleBitErrorIsDetected := by
  unfold Obligations.SingleBitErrorIsDetected
  intro f j i hcrc hj hi flipped
  have hbad : crc16 flipped ≠ 0#16 := hcrc ▸ crcFrom_modify_ne (flip_ne hi) hj Config.crcInit
  refine ⟨hbad, fun hf h0 h2 h4 s hidle => ?_⟩
  obtain ⟨t, hfeed, h⟩ := feed_frame (frameShape_modify hf h0 h2 h4 _) hidle
  obtain ⟨hready, -, hjunk⟩ := h.fails hbad
  exact ⟨t, hfeed, hready, by rw [hjunk, List.length_modify]⟩

end Sys2Proof.Machine
end
